-- ==== Sys2Proof/Word.lean ====
section
/-! DEFINITION. The widths of the block's values.

Every data path is 8 bits wide but for the 16-bit CRC register, the 32-bit response data (`00_scope.md` R9,
`30_encoding.md` R72) and the 64-bit request word (R70). Bit 0 is the least significant bit (R10), and every value
is unsigned (R10, R12, R75). -/

namespace Sys2Proof

/-- A byte: bits 7..0 (`00_scope.md` R10). -/
abbrev Byte := BitVec 8

/-- A CRC-16/XMODEM remainder, 16 bits (`00_scope.md` R7, CRC_WIDTH). -/
abbrev Crc := BitVec 16

/-- The DATA half of a response, 32 bits (`30_encoding.md` R72). -/
abbrev Data := BitVec 32

/-- A request word in format RQ64, 64 bits (`30_encoding.md` R70, R81). -/
abbrev RequestWord := BitVec 64

/-- A frame in format FR10: exactly 10 bytes, whatever the operands (`00_scope.md` R7, `30_encoding.md` R82). -/
abbrev Frame := Vector Byte 10

/-- `zext_32(v)` (`00_scope.md` R12). -/
abbrev zext32 {w : Nat} (v : BitVec w) : Data := v.setWidth 32

end Sys2Proof
end

