-- ==== Sys2Proof/Syntax.lean ====
section
/-! DEFINITION. The syntax of the block: its requests (`Instr`), the names of its faults, the elements of a snapshot
payload, and the assembler's source lines. -/

namespace Sys2Proof

/-- The block's fault codes (`60_exceptions.md` R170). A fault is an answer of the block, after which it goes on
(R178); it is not a stop of the model. -/
inductive FaultCode
  /-- Code 1: OP is reserved (R171). -/
  | eIllegalOp
  /-- Code 2: a reserved operand bit is 1 (R172). -/
  | eReserved
  /-- Code 3: an index operand fits its field but names no element (R173). -/
  | eRange
  /-- Code 4: the request would read storage that holds no value (R174). -/
  | eUnwritten
  deriving DecidableEq, Repr

/-- The operations of the opcode map, one per row (`30_encoding.md` R73). -/
inductive Op
  | crcInit | crcUpdate | crcRead
  | frameEncode | frameRead
  | snapBegin | snapPush | snapEnd
  | dsRead | dinTest | distRead | analogRead
  | statusRead
  deriving DecidableEq, Repr

/-- A request, decoded: one constructor per row of the opcode table. Each operand's type is exactly as wide as the
operand's field in the request word (`30_encoding.md` R73, R75), so every term of this type has an encoding. -/
inductive Instr
  /-- CRC_INIT (`40_crc.md` R102). -/
  | crcInit
  /-- CRC_UPDATE: the data byte A (`40_crc.md` R103). -/
  | crcUpdate (a : Byte)
  /-- CRC_READ (`40_crc.md` R104). -/
  | crcRead
  /-- FRAME_ENCODE: COMMAND, SUBELEMENT, P1, P2, P3, P4 in fields A to F (`41_frame.md` R121). -/
  | frameEncode (cmd sub p1 p2 p3 p4 : Byte)
  /-- FRAME_READ: the frame index, A[3:0] (`41_frame.md` R128). -/
  | frameRead (i : BitVec 4)
  /-- SNAP_BEGIN (`42_snapshot.md` R141). -/
  | snapBegin
  /-- SNAP_PUSH: the element byte A and its valid bit V = B[0] (`42_snapshot.md` R142). -/
  | snapPush (a : Byte) (v : Bool)
  /-- SNAP_END (`42_snapshot.md` R143). -/
  | snapEnd
  /-- DS_READ: the DeviceState index, A[3:0] (`42_snapshot.md` R150). -/
  | dsRead (i : BitVec 4)
  /-- DIN_TEST: the bit index, A[2:0] (`42_snapshot.md` R151). -/
  | dinTest (k : BitVec 3)
  /-- DIST_READ (`42_snapshot.md` R152). -/
  | distRead
  /-- ANALOG_READ: the channel, A[0] (`42_snapshot.md` R153). -/
  | analogRead (ch : BitVec 1)
  /-- STATUS_READ (`60_exceptions.md` R180). -/
  | statusRead
  deriving DecidableEq, Repr

/-- The operation a request selects. -/
def Instr.op : Instr → Op
  | .crcInit => .crcInit
  | .crcUpdate _ => .crcUpdate
  | .crcRead => .crcRead
  | .frameEncode .. => .frameEncode
  | .frameRead _ => .frameRead
  | .snapBegin => .snapBegin
  | .snapPush .. => .snapPush
  | .snapEnd => .snapEnd
  | .dsRead _ => .dsRead
  | .dinTest _ => .dinTest
  | .distRead => .distRead
  | .analogRead _ => .analogRead
  | .statusRead => .statusRead

/-- One element of a snapshot payload as it reaches the block: a byte and whether the host read a number in 0..255
there (`30_encoding.md` R86, `42_snapshot.md` R140). -/
structure Element where
  byte : Byte
  valid : Bool
  deriving DecidableEq, Repr

/-- The eight command categories the document names; their codes are open (`30_encoding.md` R84). -/
inductive CommandCategory
  | systemStart | setOutput | setServo | setPwm | setAnimation | setRgb | audioPlayerMessage | systemEnd
  deriving DecidableEq, Repr

/-- An argument a caller hands the host: an integer, or something that is none, which the host refuses where it
needs a byte (`00_scope.md` R15). -/
inductive Arg
  | int (v : Int)
  | nonInteger
  deriving DecidableEq, Repr

/-- A source line of the assembler: a request (`30_encoding.md` R87) or a pseudo-instruction (R88). -/
inductive Line
  /-- A line that holds nothing, or only a comment. -/
  | blank
  | crcInit
  | crcUpdate (byte : Arg)
  | crcRead
  /-- `FRAME_ENCODE cmd, sub` and zero to four parameters: the full form of R87 and the short forms of R88. -/
  | frameEncode (cmd sub : Arg) (params : List Arg)
  | frameRead (idx : Arg)
  | snapBegin
  | snapPush (byte v : Arg)
  /-- `SNAP_PUSH byte`, for `SNAP_PUSH byte, 1` (R88). -/
  | snapPushValid (byte : Arg)
  /-- `SNAP_BAD` (R88). -/
  | snapBad
  | snapEnd
  | dsRead (idx : Arg)
  | dinTest (bit : Arg)
  | distRead
  | analogRead (ch : Arg)
  | statusRead
  /-- `CRC_BLOCK b0, ..., bn-1` (R88). -/
  | crcBlock (bytes : List Arg)
  /-- `SNAP_LOAD e0, ..., en-1` (R88). -/
  | snapLoad (elements : List Arg)
  /-- `FRAME_DUMP` (R88). -/
  | frameDump
  deriving DecidableEq, Repr

end Sys2Proof
end

