-- ==== Sys2Proof/WellFormed.lean ====
section
/-! DEFINITION. Which source lines the assembler takes (`30_encoding.md` R87).

An `Instr` has no ill-formed term: each operand's type is exactly as wide as its field. What can be ill-formed is a
source line (this file) and a request word (R78 and R79, which `Decode.lean` checks and names). -/

namespace Sys2Proof

/-- The argument can be made a byte: it is an integer (`00_scope.md` R15; any integer wraps, R76). -/
def Arg.isInteger : Arg → Bool
  | .int _ => true
  | .nonInteger => false

/-- The argument is one of the `n` values 0 .. n-1 that its field holds (`30_encoding.md` R87). -/
def Arg.fits (n : Nat) : Arg → Bool
  | .int v => decide (0 ≤ v) && decide (v < n)
  | .nonInteger => false

/-- The assembler takes the line: each byte operand is an integer, each index operand fits its field (FRAME_READ and
DS_READ 0..15, DIN_TEST 0..7, ANALOG_READ and V 0..1), and a FRAME_ENCODE has at most four parameters
(`30_encoding.md` R87, R88). -/
def Line.wf : Line → Bool
  | .blank | .crcInit | .crcRead | .snapBegin | .snapBad | .snapEnd | .distRead | .statusRead | .frameDump => true
  | .crcUpdate byte => byte.isInteger
  | .frameEncode cmd sub params =>
    cmd.isInteger && sub.isInteger && params.all Arg.isInteger && decide (params.length ≤ 4)
  | .frameRead idx => idx.fits 16
  | .snapPush byte v => byte.isInteger && v.fits 2
  | .snapPushValid byte => byte.isInteger
  | .dsRead idx => idx.fits 16
  | .dinTest bit => bit.fits 8
  | .analogRead ch => ch.fits 2
  | .crcBlock bytes => bytes.all Arg.isInteger
  | .snapLoad elements => elements.all Arg.isInteger

end Sys2Proof
end

