-- ==== Sys2Proof/Decode.lean ====
section
/-! DEFINITION. The request word RQ64: the opcode map, the decoder, the encoder and the byte channel
(`30_encoding.md` R70 to R81, R89; `20_memory.md` R55). -/

namespace Sys2Proof

/-! ## The opcode map -/

/-- The OP value of each operation (`30_encoding.md` R73). -/
def opCode : Op → Byte
  | .crcInit => 0x01
  | .crcUpdate => 0x02
  | .crcRead => 0x03
  | .frameEncode => 0x10
  | .frameRead => 0x11
  | .snapBegin => 0x20
  | .snapPush => 0x21
  | .snapEnd => 0x22
  | .dsRead => 0x30
  | .dinTest => 0x31
  | .distRead => 0x32
  | .analogRead => 0x33
  | .statusRead => 0x40

/-- The 13 operations, in the order of the opcode map. -/
def allOps : List Op :=
  [.crcInit, .crcUpdate, .crcRead, .frameEncode, .frameRead, .snapBegin, .snapPush, .snapEnd, .dsRead, .dinTest,
    .distRead, .analogRead, .statusRead]

/-- The operation an OP value selects; none where the value is reserved (`30_encoding.md` R78). -/
def opOfCode (code : Byte) : Option Op :=
  allOps.find? fun op => opCode op == code

/-- The operand bits each operation uses, as a mask over the request word (`30_encoding.md` R74). -/
def usedMask : Op → RequestWord
  | .crcInit | .crcRead | .snapBegin | .snapEnd | .distRead | .statusRead => 0x0000000000000000
  | .crcUpdate => 0x000000000000FF00
  | .frameEncode => 0x00FFFFFFFFFFFF00
  | .frameRead | .dsRead => 0x0000000000000F00
  | .snapPush => 0x000000000001FF00
  | .dinTest => 0x0000000000000700
  | .analogRead => 0x0000000000000100

/-! ## The fields of a request word (`30_encoding.md` R70) -/

/-- OP, W[7:0]. -/
def fieldOP (w : RequestWord) : Byte := w.extractLsb' 0 8
/-- A, W[15:8]. -/
def fieldA (w : RequestWord) : Byte := w.extractLsb' 8 8
/-- B, W[23:16]. -/
def fieldB (w : RequestWord) : Byte := w.extractLsb' 16 8
/-- C, W[31:24]. -/
def fieldC (w : RequestWord) : Byte := w.extractLsb' 24 8
/-- D, W[39:32]. -/
def fieldD (w : RequestWord) : Byte := w.extractLsb' 32 8
/-- E, W[47:40]. -/
def fieldE (w : RequestWord) : Byte := w.extractLsb' 40 8
/-- F, W[55:48]. -/
def fieldF (w : RequestWord) : Byte := w.extractLsb' 48 8
/-- Z, W[63:56], reserved. -/
def fieldZ (w : RequestWord) : Byte := w.extractLsb' 56 8

/-- The bits of W[63:8] that lie outside the operation's used mask (`30_encoding.md` R79); all 0 in a word that may
run. -/
def reservedBits (op : Op) (w : RequestWord) : RequestWord :=
  w &&& 0xFFFFFFFFFFFFFF00 &&& ~~~(usedMask op)

/-- The request an operation makes of a word's operand fields: byte operands whole, index operands by the low bits of
A, and V = B[0] (`30_encoding.md` R73, R75). -/
def instrOfFields (op : Op) (w : RequestWord) : Instr :=
  match op with
  | .crcInit => .crcInit
  | .crcUpdate => .crcUpdate (fieldA w)
  | .crcRead => .crcRead
  | .frameEncode => .frameEncode (fieldA w) (fieldB w) (fieldC w) (fieldD w) (fieldE w) (fieldF w)
  | .frameRead => .frameRead ((fieldA w).extractLsb' 0 4)
  | .snapBegin => .snapBegin
  | .snapPush => .snapPush (fieldA w) ((fieldB w).getLsbD 0)
  | .snapEnd => .snapEnd
  | .dsRead => .dsRead ((fieldA w).extractLsb' 0 4)
  | .dinTest => .dinTest ((fieldA w).extractLsb' 0 3)
  | .distRead => .distRead
  | .analogRead => .analogRead ((fieldA w).extractLsb' 0 1)
  | .statusRead => .statusRead

/-! ## The decoder and the encoder -/

/-- The decoder of `30_encoding.md` R89. It is total: a word is a request, or it spells none (E_ILLEGAL_OP, checked
first) or a malformed one (E_RESERVED). -/
def decode (w : RequestWord) : Except FaultCode Instr :=
  match opOfCode (fieldOP w) with
  | none => .error .eIllegalOp
  | some op => if reservedBits op w = 0 then .ok (instrOfFields op w) else .error .eReserved

/-- The word with the given fields and Z = 0: `W = OP | A<<8 | B<<16 | C<<24 | D<<32 | E<<40 | F<<48`
(`30_encoding.md` R70). -/
def packRequest (op a b c d e f : Byte) : RequestWord :=
  op.setWidth 64 ||| a.setWidth 64 <<< 8 ||| b.setWidth 64 <<< 16 ||| c.setWidth 64 <<< 24 |||
    d.setWidth 64 <<< 32 ||| e.setWidth 64 <<< 40 ||| f.setWidth 64 <<< 48

/-- The word of a request (`30_encoding.md` R70, R73): unused operand fields and bits are 0. -/
def encode (i : Instr) : RequestWord :=
  match i with
  | .crcUpdate a => packRequest (opCode i.op) a 0 0 0 0 0
  | .frameEncode cmd sub p1 p2 p3 p4 => packRequest (opCode i.op) cmd sub p1 p2 p3 p4
  | .frameRead k | .dsRead k => packRequest (opCode i.op) (k.setWidth 8) 0 0 0 0 0
  | .snapPush a v => packRequest (opCode i.op) a ((BitVec.ofBool v).setWidth 8) 0 0 0 0
  | .dinTest k => packRequest (opCode i.op) (k.setWidth 8) 0 0 0 0 0
  | .analogRead ch => packRequest (opCode i.op) (ch.setWidth 8) 0 0 0 0 0
  | .crcInit | .crcRead | .snapBegin | .snapEnd | .distRead | .statusRead => packRequest (opCode i.op) 0 0 0 0 0 0

/-! ## The byte channel (`20_memory.md` R55): byte k holds bits [8k+7:8k], so the OP byte comes first -/

/-- The bytes that carry a value over a byte channel, the first one first. -/
def channelBytes {w : Nat} (n : Nat) (v : BitVec w) : List Byte :=
  (List.range n).map fun k => v.extractLsb' (8 * k) 8

/-- A request word as the 8 bytes of a byte channel. -/
def requestBytes (w : RequestWord) : List Byte := channelBytes 8 w

/-- A response's DATA as the 4 bytes of a byte channel; it uses the same order as a request. -/
def dataBytes (d : Data) : List Byte := channelBytes 4 d

/-- The request word that 8 bytes of a byte channel carry. A request is exactly 64 bits (`30_encoding.md` R81), so a
list of another length carries none. -/
def requestOfBytes : List Byte → Option RequestWord
  | [b0, b1, b2, b3, b4, b5, b6, b7] =>
    some (packRequest b0 b1 b2 b3 b4 b5 b6 ||| b7.setWidth 64 <<< 56)
  | _ => none

/-- Why bytes decode to no request. -/
inductive DecodeRefusal
  /-- They are not the 8 bytes of one request word. -/
  | notOneWord
  /-- The word faults (`30_encoding.md` R89). -/
  | faults (c : FaultCode)
  deriving DecidableEq, Repr

/-- The decoder on the bytes of a byte channel: total, and naming what it refuses. -/
def decodeBytes (bytes : List Byte) : Except DecodeRefusal Instr :=
  match requestOfBytes bytes with
  | none => .error .notOneWord
  | some w =>
    match decode w with
    | .ok i => .ok i
    | .error c => .error (.faults c)

/-- The request word an opcode-table row's `nbits` bits give, every bit above them 0. -/
def tableWord (nbits w : Nat) : RequestWord := BitVec.ofNat 64 (w % 2 ^ nbits)

/-- The request the decoder reads from an opcode-table word, laid out in the channel's byte order. -/
def decodeTableWord (nbits w : Nat) : Option Instr :=
  (decodeBytes (requestBytes (tableWord nbits w))).toOption

end Sys2Proof
end

