-- ==== Sys2Proof/Config.lean ====
section
/-! DEFINITION. What an instance of the block fixes, and the parameters the spec leaves open.

An open parameter is a constant with no body: nothing can be proved about its value, so what is proved holds for
every value (`00_scope.md` R8, `93_implementation_defined.md` I1 to I3, I12). The fixed constants of R7 stand where
they are used: CRC_POLY and CRC_INIT in `Machine/Ops.lean`, the lengths 10 and 13 in the types of the stores. -/

namespace Sys2Proof.Config

/-- The two parameters that a rule of the block reads, fixed for the life of an instance (`00_scope.md` R8). -/
structure Instance where
  /-- START_BYTE, frame byte 0. -/
  startByte : Byte
  /-- END_BYTE, frame byte 7, inside the CRC. -/
  endByte : Byte
  deriving DecidableEq, Repr

/-- START_BYTE: open, no value in the source (`92_eei_decisions.md` D6). -/
opaque startByte : Byte

/-- END_BYTE: open, no value in the source (`92_eei_decisions.md` D6). -/
opaque endByte : Byte

/-- The instance whose reset state is `State.reset`. -/
def theInstance : Instance := ⟨startByte, endByte⟩

/-- CMD_CODE: the byte of each command category. It names host-side meaning and affects no rule of the block
(`00_scope.md` R8, `92_eei_decisions.md` D7). -/
opaque cmdCode : CommandCategory → Byte

/-- SUB_CODE: the byte of a category's sub-element, the sub-element given by its name in the source. It affects no
rule of the block (`00_scope.md` R8, `92_eei_decisions.md` D8). -/
opaque subCode : CommandCategory → String → Byte

/-- DIN_PIN_MAP: the device input that each digital-input bit reports, by name. It affects no rule of the block, which
reports bits by index (`00_scope.md` R8, `92_eei_decisions.md` D20). -/
opaque dinPinMap : Fin 8 → String

/-- BLOCK_BASE: where the request port sits in a host's address map, if it is memory-mapped at all
(`20_memory.md` R61, `92_eei_decisions.md` D37). It affects no rule of the block. -/
opaque blockBase : Option Nat

end Sys2Proof.Config
end

