-- ==== Sys2Proof/Machine/State.lean ====
section
/-! DEFINITION. The state of one instance of the block (`10_state.md` R36) and of its request port, and the state
after reset (`70_reset_and_hazards.md` R190).

The block has no general registers (R20), no program counter (R21), no memory (`20_memory.md` R50, R51), no modes and
no interrupt state (`60_exceptions.md` R179, R184): nothing of the kind stands here. -/

namespace Sys2Proof.Machine

/-- `dstat`, a 2-bit decode status whose value 3 never occurs (`10_state.md` R29). -/
inductive DecodeStatus
  /-- 0: no SNAP_END since reset. -/
  | noneYet
  /-- 1: the last SNAP_END committed. -/
  | committed
  /-- 2: the last SNAP_END rejected. -/
  | rejected
  deriving DecidableEq, Repr

/-- A response (`30_encoding.md` R72): CODE, none standing for 0 = OK, and DATA. -/
structure Response where
  code : Option FaultCode
  data : Data
  deriving DecidableEq, Repr

/-- What the host does to the block, one at a time: it issues a request word (`00_scope.md` R5), or it resets the
block between two requests (`70_reset_and_hazards.md` R190). -/
inductive Event
  | request (w : RequestWord)
  | reset
  deriving DecidableEq, Repr

/-- The state. `crc` to `errop` are the tuple of `10_state.md` R36. `inst` holds the instance's parameters, which no
event changes (`00_scope.md` R8); `pending` and `responses` are the model's own fields, the two ends of the request
port. -/
structure State where
  /-- START_BYTE and END_BYTE of this instance (`00_scope.md` R8). -/
  inst : Config.Instance
  /-- The running CRC remainder, 16 bits (R22). -/
  crc : Crc
  /-- FB[0..9], or no value (R23). -/
  fb : Option Frame
  /-- FB holds a frame (R24). -/
  fvalid : Bool
  /-- DS[1..12], entry i at position i-1 (R25); Snapshot position 0 has no entry (R26). -/
  ds : Vector Byte 12
  /-- SB[0..12], each a byte or no value (R27). -/
  sb : Vector (Option Byte) 13
  /-- The elements pushed since the last clear, saturating at 14; 15 never occurs (R27). -/
  scnt : Fin 15
  /-- An element pushed since the last clear was marked not valid (R28). -/
  spoison : Bool
  /-- The decode status (R29). -/
  dstat : DecodeStatus
  /-- The sticky first-fault code, none standing for 0 (R31). -/
  err : Option FaultCode
  /-- OP of the request that set `err` (R32). -/
  errop : Byte
  /-- What the host will do, in issue order (`20_memory.md` R63). -/
  pending : List Event
  /-- The responses returned so far, the first one first (`70_reset_and_hazards.md` R201). -/
  responses : List Response
  deriving DecidableEq, Repr

/-- Reasons for which the model stops with a fault. There are none: every fault of the block is an answer after which
it goes on (`60_exceptions.md` R178), and the block never stops by itself (`70_reset_and_hazards.md` R201). -/
inductive Fault
  deriving DecidableEq, Repr

/-- Reasons for which the model refuses to give an instruction a meaning. -/
inductive Refusal
  /-- `exec` has no meaning for the instruction yet. Raised only by an arm of `Machine/Dispatch.lean`; safe, since a run
  stops there. No arm raises it. -/
  | notModelled (mnemonic : String)
  deriving DecidableEq, Repr

/-- The state after reset of an instance with the given parameters (`70_reset_and_hazards.md` R190). -/
def State.resetOf (inst : Config.Instance) : State where
  inst := inst
  crc := 0x0000
  fb := none
  fvalid := false
  ds := Vector.replicate 12 0x00
  sb := Vector.replicate 13 none
  scnt := 0
  spoison := false
  dstat := .noneYet
  err := none
  errop := 0x00
  pending := []
  responses := []

/-- The machine right after reset: an instance with the open parameters, every field as R190 states it, no request
issued. -/
def State.reset : State := State.resetOf Config.theInstance

end Sys2Proof.Machine
end

