-- ==== Sys2Proof/Machine/Ops.lean ====
section
/-! DEFINITION. The named operations over the state, which the meanings share: the request port, the CRC function, the
stores, and taking a fault. -/

namespace Sys2Proof.Machine

/-- What an instruction or a step ends in. -/
abbrev Result := Host.Outcome State Fault Refusal

/-! ## The request port -/

/-- The next event of the host, and the state with it taken off; none where the host has issued nothing. -/
def takeEvent (s : State) : Option (Event × State) :=
  match s.pending with
  | [] => none
  | e :: rest => some (e, { s with pending := rest })

/-- The block returns a response to the host (`30_encoding.md` R71, R72). -/
def State.addResponse (r : Response) (s : State) : State :=
  { s with responses := s.responses ++ [r] }

/-- `respond(OK, data)` with the writes of the operation made in `s` (`00_scope.md` R14). -/
def respond (data : Data) (s : State) : Result :=
  .next (s.addResponse ⟨none, data⟩)

/-! ## Taking a fault (`60_exceptions.md` R175, R177)

A fault transfers control nowhere and changes no mode: it records the first fault in err and errop and answers with
its code and DATA = 0. There is no return from a fault (R178): the next request runs normally. -/

/-- The sticky record of the first fault since reset (`10_state.md` R31, R32). -/
def State.recordFault (c : FaultCode) (op : Byte) (s : State) : State :=
  match s.err with
  | none => { s with err := some c, errop := op }
  | some _ => s

/-- `fault(code, OP)` of `60_exceptions.md` R175: the one way a request faults. -/
def takeFault (c : FaultCode) (op : Byte) (s : State) : Result :=
  .next ((s.recordFault c op).addResponse ⟨some c, 0⟩)

/-- Reset as an event on a running instance: every piece of the block's state takes its reset value in one step and
the instance's parameters stay (`70_reset_and_hazards.md` R190). What the host has yet to issue and has been answered
is no state of the block. -/
def State.resetEvent (s : State) : State :=
  { State.resetOf s.inst with pending := s.pending, responses := s.responses }

/-! ## The CRC function (`40_crc.md` R100, R101) -/

/-- CRC_POLY (`00_scope.md` R7). -/
def crcPoly : Crc := 0x1021

/-- CRC_INIT, the initial value (`00_scope.md` R7). -/
def crcInitial : Crc := 0x0000

/-- One of the eight shifts of R100: left by one, the polynomial folded in when the bit shifted out is 1. -/
def crcShift (r : Crc) : Crc :=
  if r.getLsbD 15 then r <<< 1 ^^^ crcPoly else r <<< 1

/-- `n` shifts. -/
def crcShifts : Nat → Crc → Crc
  | 0, r => r
  | n + 1, r => crcShifts n (crcShift r)

/-- `crc_step(c, b)` of R100: the byte enters at the top, then eight shifts. -/
def crcStep (c : Crc) (b : Byte) : Crc :=
  crcShifts 8 (c ^^^ b.setWidth 16 <<< 8)

/-- `crc16_xmodem` of R101: the fold of the step from the initial value. -/
def crc16 (bytes : List Byte) : Crc :=
  bytes.foldl crcStep crcInitial

/-- The table of R108, `T[i] = crc_step(0x0000, i)`. -/
def crcTable (i : Byte) : Crc := crcStep 0x0000 i

/-- The step computed with the table (`40_crc.md` R108), which gives what `crcStep` gives. -/
def crcStepByTable (c : Crc) (b : Byte) : Crc :=
  c <<< 8 ^^^ crcTable (c.extractLsb' 8 8 ^^^ b)

/-- CRC_HI, bits 15..8 of a CRC (`20_memory.md` R52). -/
def crcHi (c : Crc) : Byte := c.extractLsb' 8 8

/-- CRC_LO, bits 7..0 of a CRC (`20_memory.md` R52). -/
def crcLo (c : Crc) : Byte := c.extractLsb' 0 8

/-- The CRC unit's register takes a value (`10_state.md` R22). -/
def State.setCrc (c : Crc) (s : State) : State := { s with crc := c }

/-! ## The frame buffer -/

/-- `encode` of `41_frame.md` R120, the frame format FR10 of `30_encoding.md` R82: the CRC covers COMMAND through END
and is appended big-endian. -/
def encodeFrame (inst : Config.Instance) (cmd sub p1 p2 p3 p4 : Byte) : Frame :=
  let c := crc16 [cmd, sub, p1, p2, p3, p4, inst.endByte]
  #v[inst.startByte, cmd, sub, p1, p2, p3, p4, inst.endByte, crcHi c, crcLo c]

/-- All 10 bytes of FB are written in one step, and FB holds a frame (`41_frame.md` R121). -/
def State.setFrame (f : Frame) (s : State) : State := { s with fb := some f, fvalid := true }

/-- `MemRead(FB:i, 1)`: none outside 0..9 and where FB holds no value (`20_memory.md` R50, `10_state.md` R23). -/
def State.fbByte (s : State) (i : Nat) : Option Byte := s.fb.bind (·[i]?)

/-! ## The staging buffer -/

/-- `MemRead(SB:i, 1)`: none outside 0..12 and where SB[i] holds no value (`20_memory.md` R50, `10_state.md` R27). -/
def State.sbByte (s : State) (i : Nat) : Option Byte := s.sb[i]?.join

/-- The byte goes to SB[scnt] when scnt < 13; the 14th and later pushes store nothing (`42_snapshot.md` R142). -/
def stagedWith (sb : Vector (Option Byte) 13) (scnt : Fin 15) (a : Byte) : Vector (Option Byte) 13 :=
  if h : scnt.val < 13 then sb.set scnt.val (some a) else sb

/-- `min(scnt + 1, 14)` (`42_snapshot.md` R142). -/
def nextCount (scnt : Fin 15) : Fin 15 := ⟨min (scnt.val + 1) 14, by omega⟩

/-- An element is staged: it takes a position, valid or not, and poisons the payload when it is not valid
(`42_snapshot.md` R142). -/
def State.stage (a : Byte) (v : Bool) (s : State) : State :=
  { s with sb := stagedWith s.sb s.scnt a, scnt := nextCount s.scnt, spoison := s.spoison || !v }

/-- scnt and spoison are cleared; SB keeps its bytes (`42_snapshot.md` R141, R143). -/
def State.clearStaging (s : State) : State := { s with scnt := 0, spoison := false }

/-- A payload is well formed: exactly 13 elements, every one valid (`42_snapshot.md` R144). -/
def State.accepts (s : State) : Bool := s.scnt.val == 13 && !s.spoison

/-- SB[1..12], what a commit copies; SB[0] is not copied (`42_snapshot.md` R143, R147). None where one of the twelve
holds no value. -/
def stagedFields (sb : Vector (Option Byte) 13) : Option (Vector Byte 12) :=
  if h : ∀ i : Fin 12, (sb[i.val + 1]).isSome then some (Vector.ofFn fun i => (sb[i.val + 1]).get (h i)) else none

/-! ## DeviceState -/

/-- `MemRead(DS:i, 1)`: entries 1..12; none at 0, the reserved position, and above 12 (`20_memory.md` R50,
`10_state.md` R25, R26). -/
def State.dsByte (s : State) (i : Nat) : Option Byte :=
  match i with
  | 0 => none
  | k + 1 => s.ds[k]?

/-- The commit's writes: all 12 entries in one step, and dstat = 1 (`42_snapshot.md` R143). -/
def State.commit (fields : Vector Byte 12) (s : State) : State := { s with ds := fields, dstat := .committed }

/-- A reject's write: dstat = 2, DS unchanged (`42_snapshot.md` R143). -/
def State.reject (s : State) : State := { s with dstat := .rejected }

end Sys2Proof.Machine
end

