-- ==== Sys2Proof/Machine/Crc.lean ====
section
/-! DEFINITION. The CRC unit's requests (`40_crc.md`). -/

namespace Sys2Proof.Machine

/-- CRC_INIT (`40_crc.md` R102). -/
def execCrcInit (s : State) : Result :=
  respond 0 (s.setCrc crcInitial)

/-- CRC_UPDATE: the response carries the value just written (`40_crc.md` R103, `90_conflicts.md` C8). -/
def execCrcUpdate (a : Byte) (s : State) : Result :=
  let c := crcStep s.crc a
  respond (zext32 c) (s.setCrc c)

/-- CRC_READ (`40_crc.md` R104). -/
def execCrcRead (s : State) : Result :=
  respond (zext32 s.crc) s

end Sys2Proof.Machine
end

