-- ==== Sys2Proof/Machine/Operands.lean ====
section
/-! DEFINITION. The operand forms of the reads: an index or a channel to a stored byte, and the clamp.

The fields of the request word and what each request makes of them are the decoder's (`Decode.lean`,
`30_encoding.md` R73, R75). -/

namespace Sys2Proof.Machine

/-- FRAME_READ's index names a byte of FB: 0..9 (`60_exceptions.md` R173). -/
def frameIndexOk (i : BitVec 4) : Bool := i.toNat ≤ 9

/-- DS[1], the digital-input bitmask (`10_state.md` R25). -/
def State.din (s : State) : Byte := s.ds[0]

/-- DS[2], the distance (`10_state.md` R25). -/
def State.dist (s : State) : Byte := s.ds[1]

/-- DS[3], the potentiometer reading (`10_state.md` R25). -/
def State.pot (s : State) : Byte := s.ds[2]

/-- DS[4], the light reading (`10_state.md` R25). -/
def State.light (s : State) : Byte := s.ds[3]

/-- Bit k of the digital-input bitmask, bit 0 the least significant (`42_snapshot.md` R151). -/
def State.dinBit (s : State) (k : BitVec 3) : Bool := s.din.getLsbD k.toNat

/-- The field an analog channel selects: 0 the potentiometer, 1 the light (`42_snapshot.md` R153). -/
def State.analog (s : State) (ch : BitVec 1) : Byte := if ch = 0 then s.pot else s.light

/-- `min(v, 255)`, the identity on 8 bits (`42_snapshot.md` R152, R153). -/
def clamp255 (v : Byte) : Byte := BitVec.ofNat 8 (min v.toNat 255)

end Sys2Proof.Machine
end

