-- ==== Sys2Proof/Machine/DeviceState.lean ====
section
/-! DEFINITION. The reads over DeviceState (`42_snapshot.md` section 3). -/

namespace Sys2Proof.Machine

/-- DS_READ: index 0 and indices 13..15 name no entry (`42_snapshot.md` R150). -/
def execDsRead (i : BitVec 4) (s : State) : Result :=
  match s.dsByte i.toNat with
  | some b => respond (zext32 b) s
  | none => takeFault .eRange (opCode .dsRead) s

/-- DIN_TEST (`42_snapshot.md` R151). -/
def execDinTest (k : BitVec 3) (s : State) : Result :=
  respond (zext32 (BitVec.ofBool (s.dinBit k))) s

/-- DIST_READ (`42_snapshot.md` R152). -/
def execDistRead (s : State) : Result :=
  respond (zext32 (clamp255 s.dist)) s

/-- ANALOG_READ (`42_snapshot.md` R153). -/
def execAnalogRead (ch : BitVec 1) (s : State) : Result :=
  respond (zext32 (clamp255 (s.analog ch))) s

end Sys2Proof.Machine
end

