-- ==== Sys2Proof/Machine/Frame.lean ====
section
/-! DEFINITION. The frame encoder's requests (`41_frame.md`). -/

namespace Sys2Proof.Machine

/-- FRAME_ENCODE: every operand byte is accepted and written unchanged; the response is the frame's CRC
(`41_frame.md` R121, R124, R125). -/
def execFrameEncode (cmd sub p1 p2 p3 p4 : Byte) (s : State) : Result :=
  let f := encodeFrame s.inst cmd sub p1 p2 p3 p4
  respond (zext32 (f[8] ++ f[9])) (s.setFrame f)

/-- FRAME_READ: the range check comes before the unwritten check (`41_frame.md` R128, `60_exceptions.md` R176). An FB
that holds no value is unwritten storage whatever fvalid says (`00_scope.md` R14). -/
def execFrameRead (i : BitVec 4) (s : State) : Result :=
  if frameIndexOk i then
    if s.fvalid then
      match s.fbByte i.toNat with
      | some b => respond (zext32 b) s
      | none => takeFault .eUnwritten (opCode .frameRead) s
    else takeFault .eUnwritten (opCode .frameRead) s
  else takeFault .eRange (opCode .frameRead) s

end Sys2Proof.Machine
end

