-- ==== Sys2Proof/Machine/Flags.lean ====
section
/-! DEFINITION. The status flags as bits, and the status word.

The block has no condition codes (`10_state.md` R34). fvalid, spoison, dstat, err and errop are written by the
operations of `Machine/Ops.lean` that their rules name. -/

namespace Sys2Proof.Machine

/-- The 4-bit value of a fault code (`60_exceptions.md` R170). -/
def faultBits : FaultCode → BitVec 4
  | .eIllegalOp => 1
  | .eReserved => 2
  | .eRange => 3
  | .eUnwritten => 4

/-- The 4-bit value of a response's CODE and of err: 0 where there is no fault (`30_encoding.md` R72,
`60_exceptions.md` R170). -/
def codeBits : Option FaultCode → BitVec 4
  | none => 0
  | some c => faultBits c

/-- The 2-bit value of dstat (`10_state.md` R29). -/
def dstatBits : DecodeStatus → BitVec 2
  | .noneYet => 0
  | .committed => 1
  | .rejected => 2

/-- scnt as a 4-bit value (`10_state.md` R27). -/
def scntBits (scnt : Fin 15) : BitVec 4 := BitVec.ofNat 4 scnt.val

/-- The status word `{12'b0, errop[7:0], err[3:0], dstat[1:0], fvalid, spoison, scnt[3:0]}`
(`60_exceptions.md` R180, `10_state.md` R33). -/
def State.statusWord (s : State) : Data :=
  0#12 ++ s.errop ++ codeBits s.err ++ dstatBits s.dstat ++ BitVec.ofBool s.fvalid ++ BitVec.ofBool s.spoison ++
    scntBits s.scnt

end Sys2Proof.Machine
end

