-- ==== Sys2Proof/Machine/Snapshot.lean ====
section
/-! DEFINITION. The snapshot input requests, and the payload-level contract they meet (`42_snapshot.md`). -/

namespace Sys2Proof.Machine

/-- SNAP_BEGIN: a payload in progress is dropped, with no change of DS or dstat (`42_snapshot.md` R141). -/
def execSnapBegin (s : State) : Result :=
  respond 0 s.clearStaging

/-- SNAP_PUSH: the response is the new scnt (`42_snapshot.md` R142, `90_conflicts.md` C8). -/
def execSnapPush (a : Byte) (v : Bool) (s : State) : Result :=
  let t := s.stage a v
  respond (zext32 (scntBits t.scnt)) t

/-- SNAP_END: a commit of all 12 entries or none; a reject is no fault (`42_snapshot.md` R143, R145, R155). A commit
that would read an SB entry with no value is E_UNWRITTEN (`00_scope.md` R14); no run reaches that
(`10_state.md` R35). -/
def execSnapEnd (s : State) : Result :=
  if s.accepts then
    match stagedFields s.sb with
    | some fields => respond 1 (s.commit fields).clearStaging
    | none => takeFault .eUnwritten (opCode .snapEnd) s
  else respond 0 s.reject.clearStaging

/-- Fields 1..12 of a payload of 13 valid elements; none for any other payload (`42_snapshot.md` R140, R144). -/
def payloadFields (es : List Element) : Option (Vector Byte 12) :=
  if h : es.length = 13 ∧ ∀ e ∈ es, e.valid = true then
    some (Vector.ofFn fun i : Fin 12 => (es[i.val + 1]'(by omega)).byte)
  else none

/-- `decode(e0..en-1)` of `42_snapshot.md` R140 on a DeviceState: the new DeviceState, and whether it committed. -/
def decodePayload (es : List Element) (ds : Vector Byte 12) : Vector Byte 12 × Bool :=
  match payloadFields es with
  | some fields => (fields, true)
  | none => (ds, false)

/-- The requests that bring a payload to the block: SNAP_BEGIN, one SNAP_PUSH per element, SNAP_END
(`42_snapshot.md` R148, `30_encoding.md` R86). -/
def payloadRequests (es : List Element) : List Instr :=
  .snapBegin :: es.map (fun e => .snapPush e.byte e.valid) ++ [.snapEnd]

end Sys2Proof.Machine
end

