-- ==== Sys2Proof/Machine/Status.lean ====
section
/-! DEFINITION. The block status request (`60_exceptions.md` section 3). -/

namespace Sys2Proof.Machine

/-- STATUS_READ: it clears nothing (`60_exceptions.md` R180). -/
def execStatusRead (s : State) : Result :=
  respond s.statusWord s

end Sys2Proof.Machine
end

