-- ==== Sys2Proof/Machine/Dispatch.lean ====
section
/-! DEFINITION. One arm per instruction. -/

namespace Sys2Proof.Machine

def exec (i : Instr) (s : State) : Host.Outcome State Fault Refusal :=
  match i with
  | .crcInit => Sys2Proof.Machine.execCrcInit s
  | .crcUpdate a => Sys2Proof.Machine.execCrcUpdate a s
  | .crcRead => Sys2Proof.Machine.execCrcRead s
  | .frameEncode cmd sub p1 p2 p3 p4 => Sys2Proof.Machine.execFrameEncode cmd sub p1 p2 p3 p4 s
  | .frameRead k => Sys2Proof.Machine.execFrameRead k s
  | .snapBegin => Sys2Proof.Machine.execSnapBegin s
  | .snapPush a v => Sys2Proof.Machine.execSnapPush a v s
  | .snapEnd => Sys2Proof.Machine.execSnapEnd s
  | .dsRead k => Sys2Proof.Machine.execDsRead k s
  | .dinTest k => Sys2Proof.Machine.execDinTest k s
  | .distRead => Sys2Proof.Machine.execDistRead s
  | .analogRead ch => Sys2Proof.Machine.execAnalogRead ch s
  | .statusRead => Sys2Proof.Machine.execStatusRead s

end Sys2Proof.Machine
end

