-- ==== Sys2Proof/Machine/Step.lean ====
section
/-! DEFINITION. One step of the machine: the next event at the request port, served to completion
(`00_scope.md` R5, `20_memory.md` R63, `70_reset_and_hazards.md` R199). -/

namespace Sys2Proof.Machine

/-- A request word is served: decoded (`30_encoding.md` R89) and run, or answered with the decoder's fault
(`60_exceptions.md` R171, R172, R175). -/
def serve (w : RequestWord) (s : State) : Host.Outcome State Fault Refusal :=
  match decode w with
  | .ok i => exec i s
  | .error c => takeFault c (fieldOP w) s

/-- One step. With nothing issued, the block waits and holds its state (`70_reset_and_hazards.md` R192,
`60_exceptions.md` R189). -/
def step (s : State) : Host.Outcome State Fault Refusal :=
  match takeEvent s with
  | none => .next s
  | some (.reset, t) => .next t.resetEvent
  | some (.request w, t) => serve w t

/-- `s` with the host issuing the opcode-table word next, before whatever else it has yet to issue. -/
def State.withFetchWord (s : State) (nbits w : Nat) : State :=
  { s with pending := .request (tableWord nbits w) :: s.pending }

end Sys2Proof.Machine
end

