-- ==== Sys2Proof/Machine/Assembler.lean ====
section
/-! DEFINITION. The host's side of a request: conversion of arguments to bytes (`00_scope.md` R15, `30_encoding.md`
R76, R86), the assembler with its pseudo-instructions (R87, R88), and its text syntax (R87; the details that R87 leaves
open are the model's, log entries 11 and 17). No step of the machine uses this file. -/

namespace Sys2Proof.Machine

/-! ## Arguments to bytes -/

/-- `wrap8(v) = v mod 256` for any integer, negative ones too (`00_scope.md` R11, R15). -/
def wrap8 (v : Int) : Byte := BitVec.ofNat 8 (v % 256).toNat

/-- The byte an argument is sent as; a non-integer argument is refused (`30_encoding.md` R76, R15). -/
def argByte : Arg → Option Byte
  | .int v => some (wrap8 v)
  | .nonInteger => none

/-- The value of an index argument whose field has `w` bits; one that does not fit is refused (`30_encoding.md`
R87). -/
def argIndex (w : Nat) (a : Arg) : Option (BitVec w) :=
  match a with
  | .int v => if a.fits (2 ^ w) then some (BitVec.ofNat w v.toNat) else none
  | .nonInteger => none

/-- The element the host makes of what it read at a snapshot position: valid when it is an integer in 0..255, and
otherwise what SNAP_BAD pushes (`30_encoding.md` R86, R88). -/
def elementOfArg : Arg → Element
  | .int v => if 0 ≤ v ∧ v ≤ 255 then ⟨wrap8 v, true⟩ else ⟨0, false⟩
  | .nonInteger => ⟨0, false⟩

/-! ## Source lines to requests -/

/-- PARAM_DEFAULT: an omitted parameter is 0x00 (`00_scope.md` R7, `30_encoding.md` R77). -/
def paramDefault : Byte := 0x00

/-- The parameter at a position, or its default. -/
def paramAt (params : List Byte) (k : Nat) : Byte := params[k]?.getD paramDefault

/-- The requests of a source line (`30_encoding.md` R87, R88); none where the assembler rejects the line. -/
def assemble (l : Line) : Option (List Instr) :=
  match l with
  | .blank => some []
  | .crcInit => some [.crcInit]
  | .crcUpdate byte => do some [.crcUpdate (← argByte byte)]
  | .crcRead => some [.crcRead]
  | .frameEncode cmd sub params => do
    let c ← argByte cmd
    let e ← argByte sub
    let ps ← params.mapM argByte
    if ps.length ≤ 4 then
      some [.frameEncode c e (paramAt ps 0) (paramAt ps 1) (paramAt ps 2) (paramAt ps 3)]
    else none
  | .frameRead idx => do some [.frameRead (← argIndex 4 idx)]
  | .snapBegin => some [.snapBegin]
  | .snapPush byte v => do
    let b ← argByte byte
    let bit ← argIndex 1 v
    some [.snapPush b (bit.getLsbD 0)]
  | .snapPushValid byte => do some [.snapPush (← argByte byte) true]
  | .snapBad => some [.snapPush 0 false]
  | .snapEnd => some [.snapEnd]
  | .dsRead idx => do some [.dsRead (← argIndex 4 idx)]
  | .dinTest bit => do some [.dinTest (← argIndex 3 bit)]
  | .distRead => some [.distRead]
  | .analogRead ch => do some [.analogRead (← argIndex 1 ch)]
  | .statusRead => some [.statusRead]
  | .crcBlock bytes => do
    let bs ← bytes.mapM argByte
    some (.crcInit :: bs.map .crcUpdate ++ [.crcRead])
  | .snapLoad elements => do
    let es ← elements.mapM argByte
    some (.snapBegin :: es.map (.snapPush · true) ++ [.snapEnd])
  | .frameDump => some ((List.range 10).map fun k => .frameRead (BitVec.ofNat 4 k))

/-- A program's request words in issue order; none where the assembler rejects a line. -/
def assembleAll (lines : List Line) : Option (List RequestWord) := do
  let is ← lines.mapM assemble
  some (is.flatten.map encode)

/-! ## Text to source lines (`30_encoding.md` R87) -/

/-- A decimal digit's value. -/
def decDigit (c : Char) : Option Nat :=
  if '0'.toNat ≤ c.toNat ∧ c.toNat ≤ '9'.toNat then some (c.toNat - '0'.toNat) else none

/-- A hexadecimal digit's value. -/
def hexDigit (c : Char) : Option Nat :=
  if 'a'.toNat ≤ c.toNat ∧ c.toNat ≤ 'f'.toNat then some (c.toNat - 'a'.toNat + 10)
  else if 'A'.toNat ≤ c.toNat ∧ c.toNat ≤ 'F'.toNat then some (c.toNat - 'A'.toNat + 10)
  else decDigit c

/-- A number in a base, of one digit or more. -/
def parseDigits (digit : Char → Option Nat) (base : Nat) (cs : List Char) : Option Nat :=
  if cs.isEmpty then none
  else cs.foldl (fun acc c => do some ((← acc) * base + (← digit c))) (some 0)

/-- An unsigned number: decimal, or hexadecimal after `0x`. -/
def parseNat (cs : List Char) : Option Nat :=
  match cs with
  | '0' :: 'x' :: hex => parseDigits hexDigit 16 hex
  | _ => parseDigits decDigit 10 cs

/-- An operand: an integer in decimal or with a `0x` prefix, with a `-` before it where it is negative; any other text
is no integer. -/
def parseArg (cs : List Char) : Arg :=
  match cs with
  | '-' :: rest =>
    match parseNat rest with
    | some n => .int (-(n : Int))
    | none => .nonInteger
  | _ =>
    match parseNat cs with
    | some n => .int n
    | none => .nonInteger

/-- Space and tab separate; they mean nothing else. -/
def isBlankChar (c : Char) : Bool := c == ' ' || c == '\t'

/-- The text without the blanks at its ends. -/
def trimChars (cs : List Char) : List Char :=
  ((cs.dropWhile isBlankChar).reverse.dropWhile isBlankChar).reverse

/-- The text cut at each comma. -/
def splitCommas : List Char → List (List Char)
  | [] => [[]]
  | ',' :: cs => [] :: splitCommas cs
  | c :: cs =>
    match splitCommas cs with
    | [] => [[c]]
    | piece :: rest => (c :: piece) :: rest

/-- The operands: none in blank text, else one for each piece between commas. -/
def parseOperands (cs : List Char) : List Arg :=
  let text := trimChars cs
  if text.isEmpty then [] else (splitCommas text).map fun piece => parseArg (trimChars piece)

/-- The line a mnemonic makes with its operands; none for an unknown mnemonic or a wrong number of operands
(`30_encoding.md` R87, R88). The forms are those that R87 and R88 list. DESIGN CHOICE (log entry 17): the line
`.word 0x0000000000000000` of `95_test_vectors.md` P4 is none of them and is rejected; a host issues such a word as a
request, without the assembler. -/
def lineOf (mnemonic : String) (args : List Arg) : Option Line :=
  match mnemonic, args with
  | "CRC_INIT", [] => some .crcInit
  | "CRC_UPDATE", [byte] => some (.crcUpdate byte)
  | "CRC_READ", [] => some .crcRead
  | "FRAME_ENCODE", cmd :: sub :: params => some (.frameEncode cmd sub params)
  | "FRAME_READ", [idx] => some (.frameRead idx)
  | "SNAP_BEGIN", [] => some .snapBegin
  | "SNAP_PUSH", [byte, v] => some (.snapPush byte v)
  | "SNAP_PUSH", [byte] => some (.snapPushValid byte)
  | "SNAP_BAD", [] => some .snapBad
  | "SNAP_END", [] => some .snapEnd
  | "DS_READ", [idx] => some (.dsRead idx)
  | "DIN_TEST", [bit] => some (.dinTest bit)
  | "DIST_READ", [] => some .distRead
  | "ANALOG_READ", [ch] => some (.analogRead ch)
  | "STATUS_READ", [] => some .statusRead
  | "CRC_BLOCK", bytes => some (.crcBlock bytes)
  | "SNAP_LOAD", elements => some (.snapLoad elements)
  | "FRAME_DUMP", [] => some .frameDump
  | _, _ => none

/-- The source line of a line of text: `;` starts a comment, the mnemonic comes first, its operands after it. -/
def parseLine (text : List Char) : Option Line :=
  let code := trimChars (text.takeWhile (· != ';'))
  if code.isEmpty then some .blank
  else lineOf (String.ofList (code.takeWhile (!isBlankChar ·))) (parseOperands (code.dropWhile (!isBlankChar ·)))

/-- The request words of a program's text, one string a line. -/
def assembleText (lines : List String) : Option (List RequestWord) := do
  assembleAll (← lines.mapM fun l => parseLine l.toList)

end Sys2Proof.Machine
end

