-- ==== Sys2Proof/Safety.lean ====
section
/-! DEFINITION. The terms in which claims are made: the states a response leaves, runs of requests, the units of the
block, the streams of several producers, and the invariant of every run. No step of the machine uses this file. -/

namespace Sys2Proof.Machine

/-! ## What a response leaves -/

/-- `s` with the response (OK, d) returned to the host. -/
def State.answered (d : Data) (s : State) : State :=
  { s with responses := s.responses ++ [⟨none, d⟩] }

/-- `s` after a fault with code `c` of a request with OP `op`: the response (c, 0) is returned, and err and errop hold
the fault if they held none (`60_exceptions.md` R175). -/
def State.faulted (c : FaultCode) (op : Byte) (s : State) : State :=
  { s with
    err := if s.err = none then some c else s.err
    errop := if s.err = none then op else s.errop
    responses := s.responses ++ [⟨some c, 0⟩] }

/-! ## Runs -/

/-- The host issues a request word next. -/
def State.issue (w : RequestWord) (s : State) : State :=
  { s with pending := .request w :: s.pending }

/-- The host issues these request words in this order, and nothing after them. -/
def State.issueAll (ws : List RequestWord) (s : State) : State :=
  { s with pending := ws.map .request }

/-- The run that serves every event the host has issued (`70_reset_and_hazards.md` R201). -/
def runAll (s : State) : Host.Outcome State Fault Refusal :=
  Host.Core.run Sys2Proof.core s.pending.length s

/-! ## The units of the block (`00_scope.md` R1, `30_encoding.md` R73) -/

/-- The group of the opcode map an operation belongs to. -/
inductive BlockUnit
  | crcUnit | frameEncoder | snapshotInput | deviceStateReads | status
  deriving DecidableEq, Repr

/-- The unit of an operation. -/
def unitOf : Op → BlockUnit
  | .crcInit | .crcUpdate | .crcRead => .crcUnit
  | .frameEncode | .frameRead => .frameEncoder
  | .snapBegin | .snapPush | .snapEnd => .snapshotInput
  | .dsRead | .dinTest | .distRead | .analogRead => .deviceStateReads
  | .statusRead => .status

/-- The word is a request with this operation; a word that faults in the decoder is none. -/
def isOp (op : Op) (w : RequestWord) : Bool :=
  match decode w with
  | .ok i => i.op == op
  | .error _ => false

/-- The word is a request of this unit; a word that faults in the decoder is none. -/
def isOfUnit (u : BlockUnit) (w : RequestWord) : Bool :=
  match decode w with
  | .ok i => unitOf i.op == u
  | .error _ => false

/-- ISSUE_ORDER (`20_memory.md` R64): `merged` is an interleaving of two producers' request streams that keeps each
stream's own order. -/
inductive Interleaving : List RequestWord → List RequestWord → List RequestWord → Prop
  | done : Interleaving [] [] []
  | left (w : RequestWord) {xs ys merged : List RequestWord} :
      Interleaving xs ys merged → Interleaving (w :: xs) ys (w :: merged)
  | right (w : RequestWord) {xs ys merged : List RequestWord} :
      Interleaving xs ys merged → Interleaving xs (w :: ys) (w :: merged)

/-! ## Arithmetic over GF(2), for claims about the CRC -/

/-- The product of two polynomials over GF(2), the first of degree at most 7: bit i of a word is the coefficient of
x^i. -/
def polyMul (q : Byte) (g : BitVec 32) : BitVec 32 :=
  (List.range 8).foldl (fun acc i => if q.getLsbD i then acc ^^^ g <<< i else acc) 0

/-- The generator polynomial x^16 + x^12 + x^5 + 1 that 0x1021 stands for. -/
def crcGenerator : BitVec 32 := 0x11021

/-! ## The invariant -/

/-- A frame of this instance: START first, END at byte 7, and the big-endian CRC of bytes 1..7 at the end
(`30_encoding.md` R82, `41_frame.md` R123). -/
def frameOk (inst : Config.Instance) (f : Frame) : Bool :=
  let c := crc16 [f[1], f[2], f[3], f[4], f[5], f[6], f[7]]
  f[0] == inst.startByte && f[7] == inst.endByte && f[8] == crcHi c && f[9] == crcLo c

/-- errop is the OP of a request that raises the fault in err; it is 0 while there is none (`10_state.md` R31, R32,
`60_exceptions.md` R170). -/
def errRecordOk : Option FaultCode → Byte → Bool
  | none, op => op == 0
  | some .eIllegalOp, op => (opOfCode op).isNone
  | some .eReserved, op => (opOfCode op).isSome
  | some .eRange, op => op == opCode .frameRead || op == opCode .dsRead
  | some .eUnwritten, op => op == opCode .frameRead

/-- A response that is a fault carries DATA = 0 (`30_encoding.md` R72). -/
def Response.ok (r : Response) : Bool := r.code.isNone || r.data == 0

/-- What holds in every state a run reaches. -/
abbrev State.Inv (s : State) : Prop :=
  -- fvalid is 1 exactly when FB holds a frame (`10_state.md` R24)
  s.fvalid = s.fb.isSome ∧
  -- and what FB holds is a whole frame (`41_frame.md` R122, R123)
  s.fb.all (frameOk s.inst) = true ∧
  -- the scnt elements pushed since the last clear hold bytes (`10_state.md` R27, R35)
  (∀ i : Fin 13, i.val < s.scnt.val → s.sb[i.val].isSome = true) ∧
  -- only a pushed element poisons (`10_state.md` R28)
  (s.spoison = true → 0 < s.scnt.val) ∧
  -- DS holds its reset value until the first SNAP_END (`10_state.md` R25, R29, R30)
  (s.dstat = .noneYet → ∀ i : Fin 12, s.ds[i.val] = 0) ∧
  -- err and errop fit each other
  errRecordOk s.err s.errop = true ∧
  s.responses.all Response.ok = true

/-- Every piece of the block's state has the reset value of `70_reset_and_hazards.md` R190. -/
def State.AtReset (s : State) : Prop :=
  s.crc = 0x0000 ∧ (∀ i, s.fbByte i = none) ∧ s.fb = none ∧ s.fvalid = false ∧
  (∀ i, 1 ≤ i → i ≤ 12 → s.dsByte i = some 0x00) ∧ (∀ i, s.sbByte i = none) ∧
  s.scnt.val = 0 ∧ s.spoison = false ∧ s.dstat = .noneYet ∧ s.err = none ∧ s.errop = 0x00

end Sys2Proof.Machine
end

