-- ==== Sys2Proof/Certificates/Slice0/Obligations.lean ====
section
/-! DEFINITION. The statements for the provers. Each docstring names the rule of the spec it formalises.

A statement about one request has up to four kinds of clause: what `exec` answers (an equation between states, so that
every field it does not name is unchanged), which words decode to the request, and where such a word faults. -/

open Sys2Proof Sys2Proof.Machine

/-! ## Reset, the request port and decoding -/

/-- `70_reset_and_hazards.md` R190. Reset is an event between two requests: in one step every piece of state takes its
reset value, from any state, and START_BYTE and END_BYTE stay. No request can read FB after it until FB is written. -/
def Obligations.ResetEventSetsEveryField : Prop :=
  ∀ (s : State) (rest : List Event), s.pending = .reset :: rest →
    ∃ t, step s = .next t ∧ t.AtReset ∧ t.inst = s.inst ∧
      ∀ i : BitVec 4, i.toNat ≤ 9 → exec (.frameRead i) t = .next (t.faulted .eUnwritten 0x11)

/-- The machine's state after reset has the values of R190 and the open parameters of R8. What the statement says of the
request port is the model's choice (log entries 2 to 4): at reset nothing is issued and nothing is answered, and a reset
of a running instance takes itself off the port and leaves the responses. -/
def Obligations.ResetStateHasTheListedValues : Prop :=
  State.reset.AtReset ∧ State.reset.pending = [] ∧ State.reset.responses = [] ∧
    State.reset.inst.startByte = Config.startByte ∧ State.reset.inst.endByte = Config.endByte ∧
    ∀ (s : State) (rest : List Event), s.pending = .reset :: rest →
      ∃ t, step s = .next t ∧ t.pending = rest ∧ t.responses = s.responses

/-- `30_encoding.md` R70 and R73: a few words written out from the spec's encodings decode to their requests. -/
def Obligations.WrittenWordsDecode : Prop :=
  decode 0x0000000000003102 = .ok (.crcUpdate 0x31) ∧
  decode 0x0004030201000110 = .ok (.frameEncode 1 0 1 2 3 4) ∧
  decode 0x0000000000000811 = .ok (.frameRead 8) ∧
  decode 0x0000000000012A21 = .ok (.snapPush 42 true) ∧
  decode 0x0000000000000231 = .ok (.dinTest 2) ∧
  decode 0x0000000000000133 = .ok (.analogRead 1) ∧
  decode 0x0000000000000040 = .ok .statusRead

/-- A step runs the decoded request: it takes the request off the port and is `exec` of what the word decodes to
(`20_memory.md` R63: one at a time, in issue order). -/
def Obligations.StepRunsTheDecodedRequest : Prop :=
  ∀ (s : State) (w : RequestWord) (rest : List Event) (i : Instr),
    s.pending = .request w :: rest → decode w = .ok i → step s = exec i { s with pending := rest }

/-- `60_exceptions.md` R189: between requests the block holds its state unchanged. -/
def Obligations.StateHeldBetweenRequests : Prop :=
  ∀ s : State, s.pending = [] → step s = .next s

/-- `60_exceptions.md` R171 and `30_encoding.md` R78: every OP value outside the table faults with E_ILLEGAL_OP,
whatever the operand bits, and changes no state but err and errop. -/
def Obligations.ReservedOpFaultsIllegal : Prop :=
  ∀ (s : State) (w : RequestWord),
    (fieldOP w ∉ [0x01#8, 0x02#8, 0x03#8, 0x10#8, 0x11#8, 0x20#8, 0x21#8, 0x22#8, 0x30#8, 0x31#8, 0x32#8, 0x33#8,
        0x40#8] ↔ decode w = .error .eIllegalOp) ∧
    (decode w = .error .eIllegalOp → step (s.issue w) = .next (s.faulted .eIllegalOp (fieldOP w)))

/-- `60_exceptions.md` R172 and `30_encoding.md` R79: a defined OP with a 1 in W[63:8] outside its used mask, a
non-zero Z among them, faults with E_RESERVED and changes no state but err and errop. -/
def Obligations.ReservedOperandBitFaults : Prop :=
  ∀ (s : State) (w : RequestWord) (op : Op), fieldOP w = opCode op →
    (w &&& 0xFFFFFFFFFFFFFF00 &&& ~~~(usedMask op) ≠ 0 →
      step (s.issue w) = .next (s.faulted .eReserved (opCode op))) ∧
    (fieldZ w ≠ 0 → step (s.issue w) = .next (s.faulted .eReserved (opCode op)))

/-- `30_encoding.md` R89: the decoder is the procedure written from the tables, for every word: OP first, then the
reserved bits, then dispatch by OP with the operand fields. -/
def Obligations.DecoderFollowsTheProcedure : Prop :=
  ∀ w : RequestWord,
    (opOfCode (fieldOP w) = none → decode w = .error .eIllegalOp) ∧
    (∀ op, opOfCode (fieldOP w) = some op →
      fieldOP w = opCode op ∧
      (w &&& 0xFFFFFFFFFFFFFF00 &&& ~~~(usedMask op) ≠ 0 → decode w = .error .eReserved) ∧
      (w &&& 0xFFFFFFFFFFFFFF00 &&& ~~~(usedMask op) = 0 → decode w = .ok (match op with
        | .crcInit => .crcInit
        | .crcUpdate => .crcUpdate (w.extractLsb' 8 8)
        | .crcRead => .crcRead
        | .frameEncode => .frameEncode (w.extractLsb' 8 8) (w.extractLsb' 16 8) (w.extractLsb' 24 8)
            (w.extractLsb' 32 8) (w.extractLsb' 40 8) (w.extractLsb' 48 8)
        | .frameRead => .frameRead (w.extractLsb' 8 4)
        | .snapBegin => .snapBegin
        | .snapPush => .snapPush (w.extractLsb' 8 8) (w.getLsbD 16)
        | .snapEnd => .snapEnd
        | .dsRead => .dsRead (w.extractLsb' 8 4)
        | .dinTest => .dinTest (w.extractLsb' 8 3)
        | .distRead => .distRead
        | .analogRead => .analogRead (w.extractLsb' 8 1)
        | .statusRead => .statusRead)))

/-- Every request, with every operand at every value, decodes from its word to itself. -/
def Obligations.DecodeOfEncodeIsIdentity : Prop :=
  ∀ i : Instr, decode (encode i) = .ok i

/-- Every word that decodes to a request is that request's word: no two words mean the same request. -/
def Obligations.EncodeOfDecodeIsIdentity : Prop :=
  ∀ (w : RequestWord) (i : Instr), decode w = .ok i → encode i = w

/-- `20_memory.md` R55: byte k of a byte channel holds bits [8k+7:8k] of the request word, the OP byte first, and the
word comes back from its 8 bytes; the response data uses the same order. -/
def Obligations.ByteChannelIsLittleEndian : Prop :=
  (∀ w : RequestWord, (requestBytes w).length = 8 ∧ (requestBytes w)[0]? = some (fieldOP w) ∧
    (∀ k, k < 8 → (requestBytes w)[k]? = some (w.extractLsb' (8 * k) 8)) ∧
    requestOfBytes (requestBytes w) = some w) ∧
  (∀ d : Data, (dataBytes d).length = 4 ∧ ∀ k, k < 4 → (dataBytes d)[k]? = some (d.extractLsb' (8 * k) 8))

/-! ## The CRC unit -/

/-- `40_crc.md` R102. -/
def Obligations.CrcInitClearsTheRegister : Prop :=
  ∀ s : State,
    exec .crcInit s = .next { s.answered 0 with crc := 0x0000 } ∧
    ∀ w : RequestWord, fieldOP w = 0x01 →
      (w.extractLsb' 8 56 = 0 → decode w = .ok .crcInit) ∧
      (w.extractLsb' 8 56 ≠ 0 → step (s.issue w) = .next (s.faulted .eReserved 0x01))

/-- `40_crc.md` R103: the response carries the value written to crc. Every data byte is accepted. The rule's remark that
A = 0x00 changes every crc but 0 disagrees with R100 in one value: see the next statement and log entry 16. -/
def Obligations.CrcUpdateStepsTheRegister : Prop :=
  crcStep 0x0000 0x00 = 0x0000 ∧ crcStep 0x0001 0x00 = 0x0100 ∧ crcStep 0x0100 0x00 = 0x1021 ∧
  ∀ s : State,
    (∀ a : Byte, exec (.crcUpdate a) s =
      .next { s.answered ((crcStep s.crc a).setWidth 32) with crc := crcStep s.crc a }) ∧
    ∀ w : RequestWord, fieldOP w = 0x02 →
      (w.extractLsb' 16 48 = 0 → decode w = .ok (.crcUpdate (w.extractLsb' 8 8))) ∧
      (w.extractLsb' 16 48 ≠ 0 → step (s.issue w) = .next (s.faulted .eReserved 0x02))

/-- What R100 makes of the remark of `40_crc.md` R103 that a CRC_UPDATE of 0x00 still changes a crc that is not 0: it
does, but for the one value 0xF01F. That R100 is followed and not the remark is the model's choice, log entry 16. -/
def Obligations.ZeroByteChangesAllButTwoCrcs : Prop :=
  ∀ s : State, ∃ t, exec (.crcUpdate 0x00) s = .next t ∧ (t.crc = s.crc ↔ s.crc = 0x0000 ∨ s.crc = 0xF01F)

/-- `40_crc.md` R104: it neither consumes nor clears crc. -/
def Obligations.CrcReadReturnsTheRegister : Prop :=
  ∀ s : State,
    exec .crcRead s = .next (s.answered (s.crc.setWidth 32)) ∧
    ∀ w : RequestWord, fieldOP w = 0x03 →
      (w.extractLsb' 8 56 = 0 → decode w = .ok .crcRead) ∧
      (w.extractLsb' 8 56 ≠ 0 → step (s.issue w) = .next (s.faulted .eReserved 0x03))

/-- `40_crc.md` R101: the fold from 0x0000, with its two corner cases. -/
def Obligations.CrcOfASequenceIsTheFold : Prop :=
  crc16 [] = 0x0000 ∧
  (∀ (bs : List Byte) (b : Byte), crc16 (bs ++ [b]) = crcStep (crc16 bs) b) ∧
  (∀ n : Nat, crc16 (List.replicate n 0x00) = 0x0000)

/-- What `40_crc.md` R100 computes is what the CRC's parameters name: the step leaves the remainder of
`c * x^8 + b * x^16` modulo the generator x^16 + x^12 + x^5 + 1 over GF(2). The quotient has degree at most 7, and a
remainder of 16 bits is unique. That R100 is what the parameters mean is the spec's general knowledge
(`93_implementation_defined.md` G1), which the model follows (log entry 9). -/
def Obligations.CrcStepIsThePolynomialRemainder : Prop :=
  ∀ (c : Crc) (b : Byte), ∃ q : Byte,
    c.setWidth 32 <<< 8 ^^^ b.setWidth 32 <<< 16 = polyMul q crcGenerator ^^^ (crcStep c b).setWidth 32

/-- `40_crc.md` R107: the CRC is linear, so what a difference between two sequences adds to the CRC depends on the
difference alone. -/
def Obligations.CrcIsLinear : Prop :=
  ∀ x y : List Byte, x.length = y.length →
    crc16 (List.zipWith (· ^^^ ·) x y) = crc16 x ^^^ crc16 y ∧
    crc16 (List.zipWith (· ^^^ ·) x y) ^^^ crc16 x = crc16 y

/-- `40_crc.md` R106: a sequence followed by its own CRC, high byte first, has CRC zero; so bytes 1..9 of every frame
have CRC zero. -/
def Obligations.CrcResidueIsZero : Prop :=
  (∀ m : List Byte, crc16 (m ++ [(crc16 m).extractLsb' 8 8, (crc16 m).extractLsb' 0 8]) = 0x0000) ∧
  (∀ (inst : Config.Instance) (cmd sub p1 p2 p3 p4 : Byte),
    crc16 ((encodeFrame inst cmd sub p1 p2 p3 p4).toList.drop 1) = 0x0000)

/-- `40_crc.md` R108: the table form gives the same value as R100 for every c and b. -/
def Obligations.CrcTableFormAgrees : Prop :=
  ∀ (c : Crc) (b : Byte), c <<< 8 ^^^ crcStep 0x0000 (c.extractLsb' 8 8 ^^^ b) = crcStep c b ∧
    crcStepByTable c b = crcStep c b

/-- `40_crc.md` R105: CRC_INIT, CRC_UPDATE of each byte and CRC_READ respond with the CRC of the bytes, from any state,
with any requests of other units interleaved before the CRC_READ, and any faulting words (`60_exceptions.md` R175). -/
def Obligations.CrcUnitComputesTheCrc : Prop :=
  ∀ (s : State) (bs : List Byte) (others merged : List RequestWord),
    (∀ w ∈ others, isOfUnit .crcUnit w = false) →
    Interleaving (encode .crcInit :: bs.map fun b => encode (.crcUpdate b)) others merged →
    ∃ t, runAll (s.issueAll (merged ++ [encode .crcRead])) = .next t ∧ t.crc = crc16 bs ∧
      t.responses.getLast? = some ⟨none, (crc16 bs).setWidth 32⟩

/-! ## The frame encoder -/

/-- `41_frame.md` R120 and R121: all ten bytes, fvalid, and the response with the frame's CRC, which with six zero
operands is 0 only where END_BYTE is 0. -/
def Obligations.FrameEncodeWritesTheFrame : Prop :=
  (∀ endByte : Byte, crc16 [0, 0, 0, 0, 0, 0, endByte] = 0 ↔ endByte = 0) ∧
  ∀ s : State,
    (∀ cmd sub p1 p2 p3 p4 c, crc16 [cmd, sub, p1, p2, p3, p4, s.inst.endByte] = c →
      exec (.frameEncode cmd sub p1 p2 p3 p4) s = .next { s.answered (c.setWidth 32) with
        fb := some #v[s.inst.startByte, cmd, sub, p1, p2, p3, p4, s.inst.endByte, c.extractLsb' 8 8, c.extractLsb' 0 8]
        fvalid := true }) ∧
    ∀ w : RequestWord, fieldOP w = 0x10 →
      (w.extractLsb' 56 8 = 0 → decode w = .ok (.frameEncode (w.extractLsb' 8 8) (w.extractLsb' 16 8)
        (w.extractLsb' 24 8) (w.extractLsb' 32 8) (w.extractLsb' 40 8) (w.extractLsb' 48 8))) ∧
      (w.extractLsb' 56 8 ≠ 0 → step (s.issue w) = .next (s.faulted .eReserved 0x10))

/-- `41_frame.md` R123 and `20_memory.md` R52: after a FRAME_ENCODE, FB[8] and FB[9] are the high and the low byte of
the CRC of FB[1..7]. -/
def Obligations.FrameEndsInItsCrc : Prop :=
  ∀ (s : State) (cmd sub p1 p2 p3 p4 : Byte), ∃ t, exec (.frameEncode cmd sub p1 p2 p3 p4) s = .next t ∧
    ∃ (bs : List Byte) (hi lo : Byte), bs.length = 7 ∧ (∀ k, k < 7 → t.fbByte (k + 1) = bs[k]?) ∧
      t.fbByte 8 = some hi ∧ t.fbByte 9 = some lo ∧ hi ++ lo = crc16 bs

/-- `41_frame.md` R126 and R127: the frame and the response depend on the operands and the instance's parameters alone;
no state but FB and fvalid is written, and crc and DS in particular are not. -/
def Obligations.FrameEncodeIsPure : Prop :=
  ∀ (s₁ s₂ : State) (cmd sub p1 p2 p3 p4 : Byte), s₁.inst = s₂.inst →
    ∃ t₁ t₂ r, exec (.frameEncode cmd sub p1 p2 p3 p4) s₁ = .next t₁ ∧
      exec (.frameEncode cmd sub p1 p2 p3 p4) s₂ = .next t₂ ∧
      t₁.fb = t₂.fb ∧ t₁.fvalid = t₂.fvalid ∧
      t₁.responses = s₁.responses ++ [r] ∧ t₂.responses = s₂.responses ++ [r] ∧
      t₁ = { s₁ with fb := t₁.fb, fvalid := t₁.fvalid, responses := t₁.responses }

/-- `41_frame.md` R128: a byte of FB, and the two faults in their order. -/
def Obligations.FrameReadReturnsAByteOrFaults : Prop :=
  ∀ s : State,
    (∀ (i : BitVec 4) (b : Byte), i.toNat ≤ 9 → s.fvalid = true → s.fbByte i.toNat = some b →
      exec (.frameRead i) s = .next (s.answered (b.setWidth 32))) ∧
    (∀ i : BitVec 4, 9 < i.toNat → exec (.frameRead i) s = .next (s.faulted .eRange 0x11)) ∧
    (∀ i : BitVec 4, i.toNat ≤ 9 → s.fvalid = false → exec (.frameRead i) s = .next (s.faulted .eUnwritten 0x11)) ∧
    ∀ w : RequestWord, fieldOP w = 0x11 →
      (w.extractLsb' 12 52 = 0 → decode w = .ok (.frameRead (w.extractLsb' 8 4))) ∧
      (w.extractLsb' 12 52 ≠ 0 → step (s.issue w) = .next (s.faulted .eReserved 0x11))

/-- `41_frame.md` R129: from any state, the frame of a FRAME_ENCODE stays readable, unchanged, across any requests that
are no FRAME_ENCODE (faulting words among them). -/
def Obligations.FrameStaysReadable : Prop :=
  ∀ (s : State) (cmd sub p1 p2 p3 p4 : Byte) (others : List RequestWord) (i : BitVec 4) (b : Byte),
    (∀ w ∈ others, isOp .frameEncode w = false) →
    (encodeFrame s.inst cmd sub p1 p2 p3 p4)[i.toNat]? = some b →
    ∃ t, runAll (s.issueAll (encode (.frameEncode cmd sub p1 p2 p3 p4) :: others ++ [encode (.frameRead i)])) = .next t ∧
      t.responses.getLast? = some ⟨none, b.setWidth 32⟩

/-- `20_memory.md` R53: FRAME_READ 0 to 9 hand a frame on in index order, START first and CRC_LO last. -/
def Obligations.FrameIsHandedOnInIndexOrder : Prop :=
  ∀ (s : State) (cmd sub p1 p2 p3 p4 : Byte),
    let c := crc16 [cmd, sub, p1, p2, p3, p4, s.inst.endByte]
    ∃ t, runAll (s.issueAll (encode (.frameEncode cmd sub p1 p2 p3 p4) ::
        (List.range 10).map fun k => encode (.frameRead (BitVec.ofNat 4 k)))) = .next t ∧
      t.responses = s.responses ++ ⟨none, c.setWidth 32⟩ ::
        [s.inst.startByte, cmd, sub, p1, p2, p3, p4, s.inst.endByte, c.extractLsb' 8 8, c.extractLsb' 0 8].map
          fun b => ⟨none, b.setWidth 32⟩

/-- Storage that holds no value is never read as a value (`00_scope.md` R14). The two forms stated here are reached by
no run; that they answer E_UNWRITTEN is the model's reading, log entry 5. -/
def Obligations.ReadingNoValueFaults : Prop :=
  (∀ (s : State) (i : BitVec 4), i.toNat ≤ 9 → s.fbByte i.toNat = none →
    exec (.frameRead i) s = .next (s.faulted .eUnwritten 0x11)) ∧
  (∀ (s : State) (i : Fin 12), s.scnt.val = 13 → s.spoison = false → s.sbByte (i.val + 1) = none →
    exec .snapEnd s = .next (s.faulted .eUnwritten 0x22))

/-! ## Snapshot input -/

/-- `42_snapshot.md` R141: a payload in progress is dropped without a change of DS or dstat. -/
def Obligations.SnapBeginClearsTheStaging : Prop :=
  ∀ s : State,
    exec .snapBegin s = .next { s.answered 0 with scnt := 0, spoison := false } ∧
    ∀ w : RequestWord, fieldOP w = 0x20 →
      (w.extractLsb' 8 56 = 0 → decode w = .ok .snapBegin) ∧
      (w.extractLsb' 8 56 ≠ 0 → step (s.issue w) = .next (s.faulted .eReserved 0x20))

/-- `42_snapshot.md` R142: the byte goes to SB[scnt] while scnt < 13 and nowhere after, scnt advances and saturates at
14, V = 0 poisons, and the response is the new scnt. -/
def Obligations.SnapPushStagesAnElement : Prop :=
  ∀ s : State,
    (∀ (a : Byte) (v : Bool), ∃ t, exec (.snapPush a v) s = .next t ∧
      t.scnt.val = min (s.scnt.val + 1) 14 ∧
      t.spoison = (if v = false then true else s.spoison) ∧
      t.responses = s.responses ++ [⟨none, BitVec.ofNat 32 t.scnt.val⟩] ∧
      (∀ i, t.sbByte i = if i = s.scnt.val ∧ s.scnt.val < 13 then some a else s.sbByte i) ∧
      t = { s with sb := t.sb, scnt := t.scnt, spoison := t.spoison, responses := t.responses }) ∧
    ∀ w : RequestWord, fieldOP w = 0x21 →
      (w.extractLsb' 17 47 = 0 → decode w = .ok (.snapPush (w.extractLsb' 8 8) (w.getLsbD 16))) ∧
      (w.extractLsb' 17 47 ≠ 0 → step (s.issue w) = .next (s.faulted .eReserved 0x21))

/-- `42_snapshot.md` R143 and R155: a commit copies SB[1..12] to DS[1..12] in one step, a reject leaves DS unchanged
and is no fault, and both clear scnt and spoison. -/
def Obligations.SnapEndCommitsOrRejects : Prop :=
  ∀ s : State,
    (∀ fields : Vector Byte 12, s.scnt.val = 13 → s.spoison = false →
      (∀ i : Fin 12, s.sbByte (i.val + 1) = some fields[i.val]) →
      exec .snapEnd s =
        .next { s.answered 1 with ds := fields, dstat := .committed, scnt := 0, spoison := false }) ∧
    (¬(s.scnt.val = 13 ∧ s.spoison = false) →
      exec .snapEnd s = .next { s.answered 0 with dstat := .rejected, scnt := 0, spoison := false }) ∧
    ∀ w : RequestWord, fieldOP w = 0x22 →
      (w.extractLsb' 8 56 = 0 → decode w = .ok .snapEnd) ∧
      (w.extractLsb' 8 56 ≠ 0 → step (s.issue w) = .next (s.faulted .eReserved 0x22))

/-- `42_snapshot.md` R145: a SNAP_END writes all 12 DS entries, each from its staged element, or none. -/
def Obligations.SnapEndIsAllOrNothing : Prop :=
  ∀ s : State, s.Inv → ∃ t, exec .snapEnd s = .next t ∧
    ((∀ i, 1 ≤ i → i ≤ 12 → t.dsByte i = s.sbByte i ∧ (t.dsByte i).isSome = true) ∨
      ∀ i, t.dsByte i = s.dsByte i)

/-- `42_snapshot.md` R148 (with R140 and R144): the requests of a payload, from any state, leave DS exactly as the
payload-level decode does, and SNAP_END's data is 1 exactly when that commits. -/
def Obligations.SnapshotRequestsRefineDecode : Prop :=
  ∀ (s : State) (es : List Element),
    ∃ t, runAll (s.issueAll ((payloadRequests es).map encode)) = .next t ∧
      t.ds = (decodePayload es s.ds).1 ∧
      t.dstat = (if (decodePayload es s.ds).2 = true then .committed else .rejected) ∧
      t.responses.getLast? = some ⟨none, if (decodePayload es s.ds).2 = true then 1 else 0⟩ ∧
      t.crc = s.crc ∧ t.fb = s.fb ∧ t.fvalid = s.fvalid ∧ t.err = s.err ∧ t.errop = s.errop

/-- `42_snapshot.md` R140 and R144: the payload-level contract. Exactly 13 valid elements commit, element i to DS[i]
for i = 1..12; anything else leaves DS unchanged. -/
def Obligations.PayloadDecodeContract : Prop :=
  ∀ (es : List Element) (ds : Vector Byte 12),
    ((decodePayload es ds).2 = true ↔ es.length = 13 ∧ ∀ e ∈ es, e.valid = true) ∧
    ((decodePayload es ds).2 = true →
      ∀ i : Fin 12, (es[i.val + 1]?).map Element.byte = some (decodePayload es ds).1[i.val]) ∧
    ((decodePayload es ds).2 = false → (decodePayload es ds).1 = ds)

/-- `42_snapshot.md` R149, with STATUS_READ (`20_memory.md` R60) and faulting words (`60_exceptions.md` R175) among the
others: requests of other units, and faulting words, interleaved with snapshot requests in any order
that keeps the snapshot requests' own order (`20_memory.md` R64), change nothing of the snapshot extractor. -/
def Obligations.SnapshotInputIgnoresOtherUnits : Prop :=
  ∀ (s : State) (snapshot others merged : List RequestWord),
    (∀ w ∈ snapshot, isOfUnit .snapshotInput w = true) → (∀ w ∈ others, isOfUnit .snapshotInput w = false) →
    Interleaving snapshot others merged →
    ∃ t u, runAll (s.issueAll merged) = .next t ∧ runAll (s.issueAll snapshot) = .next u ∧
      t.sb = u.sb ∧ t.scnt = u.scnt ∧ t.spoison = u.spoison ∧ t.ds = u.ds ∧ t.dstat = u.dstat

/-! ## DeviceState reads and the status word -/

/-- `42_snapshot.md` R150. -/
def Obligations.DsReadReturnsAnEntryOrFaults : Prop :=
  ∀ s : State,
    (∀ (i : BitVec 4) (b : Byte), s.dsByte i.toNat = some b →
      exec (.dsRead i) s = .next (s.answered (b.setWidth 32))) ∧
    (∀ i : BitVec 4, 1 ≤ i.toNat → i.toNat ≤ 12 → (s.dsByte i.toNat).isSome = true) ∧
    (∀ i : BitVec 4, i.toNat = 0 ∨ 12 < i.toNat → exec (.dsRead i) s = .next (s.faulted .eRange 0x30)) ∧
    ∀ w : RequestWord, fieldOP w = 0x30 →
      (w.extractLsb' 12 52 = 0 → decode w = .ok (.dsRead (w.extractLsb' 8 4))) ∧
      (w.extractLsb' 12 52 ≠ 0 → step (s.issue w) = .next (s.faulted .eReserved 0x30))

/-- `42_snapshot.md` R151: bit k of DS[1], bit 0 the least significant. -/
def Obligations.DinTestReturnsABit : Prop :=
  ∀ s : State,
    (∀ (k : BitVec 3) (din : Byte), s.dsByte 1 = some din →
      exec (.dinTest k) s = .next (s.answered (if din.getLsbD k.toNat then 1 else 0))) ∧
    ∀ w : RequestWord, fieldOP w = 0x31 →
      (w.extractLsb' 11 53 = 0 → decode w = .ok (.dinTest (w.extractLsb' 8 3))) ∧
      (w.extractLsb' 11 53 ≠ 0 → step (s.issue w) = .next (s.faulted .eReserved 0x31))

/-- `42_snapshot.md` R152: the clamped distance, which is DS[2] itself. -/
def Obligations.DistReadReturnsTheDistance : Prop :=
  ∀ s : State,
    (∀ d : Byte, s.dsByte 2 = some d →
      exec .distRead s = .next (s.answered (BitVec.ofNat 32 (min d.toNat 255))) ∧
      exec .distRead s = .next (s.answered (d.setWidth 32))) ∧
    ∀ w : RequestWord, fieldOP w = 0x32 →
      (w.extractLsb' 8 56 = 0 → decode w = .ok .distRead) ∧
      (w.extractLsb' 8 56 ≠ 0 → step (s.issue w) = .next (s.faulted .eReserved 0x32))

/-- `42_snapshot.md` R153: channel 0 is the potentiometer, DS[3]; channel 1 the light, DS[4]. -/
def Obligations.AnalogReadSelectsAChannel : Prop :=
  ∀ s : State,
    (∀ v : Byte, s.dsByte 3 = some v →
      exec (.analogRead 0) s = .next (s.answered (BitVec.ofNat 32 (min v.toNat 255))) ∧
      exec (.analogRead 0) s = .next (s.answered (v.setWidth 32))) ∧
    (∀ v : Byte, s.dsByte 4 = some v →
      exec (.analogRead 1) s = .next (s.answered (BitVec.ofNat 32 (min v.toNat 255))) ∧
      exec (.analogRead 1) s = .next (s.answered (v.setWidth 32))) ∧
    ∀ w : RequestWord, fieldOP w = 0x33 →
      (w.extractLsb' 9 55 = 0 → decode w = .ok (.analogRead (w.extractLsb' 8 1))) ∧
      (w.extractLsb' 9 55 ≠ 0 → step (s.issue w) = .next (s.faulted .eReserved 0x33))

/-- `60_exceptions.md` R180 and `10_state.md` R33: STATUS_READ returns the status word, field by field, and writes
nothing. -/
def Obligations.StatusReadReturnsTheStatusWord : Prop :=
  ∀ s : State,
    (∃ d : Data, exec .statusRead s = .next (s.answered d) ∧
      d.extractLsb' 0 4 = BitVec.ofNat 4 s.scnt.val ∧
      d.getLsbD 4 = s.spoison ∧ d.getLsbD 5 = s.fvalid ∧
      d.extractLsb' 6 2 = (match s.dstat with | .noneYet => 0 | .committed => 1 | .rejected => 2) ∧
      d.extractLsb' 8 4 = (match s.err with
        | none => 0 | some .eIllegalOp => 1 | some .eReserved => 2 | some .eRange => 3 | some .eUnwritten => 4) ∧
      d.extractLsb' 12 8 = s.errop ∧ d.extractLsb' 20 12 = 0) ∧
    ∀ w : RequestWord, fieldOP w = 0x40 →
      (w.extractLsb' 8 56 = 0 → decode w = .ok .statusRead) ∧
      (w.extractLsb' 8 56 ≠ 0 → step (s.issue w) = .next (s.faulted .eReserved 0x40))

/-- Until the first SNAP_END, every DS read returns the reset value 0 (`42_snapshot.md` R150, R151;
`70_reset_and_hazards.md` R193). -/
def Obligations.DsReadsZeroBeforeTheFirstSnapshot : Prop :=
  ∀ s : State, s.Inv → s.dstat = .noneYet →
    (∀ i : BitVec 4, 1 ≤ i.toNat → i.toNat ≤ 12 → exec (.dsRead i) s = .next (s.answered 0)) ∧
    (∀ k : BitVec 3, exec (.dinTest k) s = .next (s.answered 0)) ∧
    exec .distRead s = .next (s.answered 0) ∧
    ∀ ch : BitVec 1, exec (.analogRead ch) s = .next (s.answered 0)

/-! ## The whole machine -/

/-- The invariant holds after reset. -/
def Obligations.InvariantHoldsAtReset : Prop := State.reset.Inv

/-- Every step keeps the invariant: FB is valid exactly when it holds a whole frame with its CRC, the counted elements
are staged, only a pushed element poisons, DS keeps its reset value until the first SNAP_END, err and errop fit each
other, and a fault's DATA is 0. -/
def Obligations.EveryStepKeepsTheInvariant : Prop :=
  ∀ s t : State, s.Inv → step s = .next t → t.Inv

/-- `30_encoding.md` R71: a request is taken and answered by exactly one response before the next one is looked at, and
none is queued, dropped or retried. -/
def Obligations.EveryRequestGetsOneResponse : Prop :=
  ∀ (s : State) (w : RequestWord) (rest : List Event), s.pending = .request w :: rest →
    ∃ t r, step s = .next t ∧ t.pending = rest ∧ t.responses = s.responses ++ [r]

/-- `20_memory.md` R63: requests take effect one at a time in issue order. A run of a stream that continues another goes
on exactly from the state the first one leaves; in particular no request observes an effect of a later one. -/
def Obligations.RequestsTakeEffectInIssueOrder : Prop :=
  ∀ (s : State) (first later : List RequestWord),
    ∃ t, runAll (s.issueAll first) = .next t ∧
      runAll (s.issueAll (first ++ later)) = runAll (t.issueAll later)

/-- The block never stops by itself, faults included (`60_exceptions.md` R178, `70_reset_and_hazards.md` R201): every
step answers a next state, and every run serves all that the host has issued. -/
def Obligations.TheBlockNeverStops : Prop :=
  (∀ s : State, ∃ t, step s = .next t) ∧ (∀ s : State, ∃ t, runAll s = .next t ∧ t.pending = [])

/-- `60_exceptions.md` R175: a faulting request changes no state except err and errop, and those only if they held no
fault. -/
def Obligations.FaultsArePrecise : Prop :=
  ∀ (s t : State) (w : RequestWord) (c : FaultCode) (d : Data),
    step (s.issue w) = .next t → t.responses = s.responses ++ [⟨some c, d⟩] → t = s.faulted c (fieldOP w)

/-- `10_state.md` R31 and R32: err and errop hold the first fault since reset, they are written together, and only reset
clears them. -/
def Obligations.FirstFaultIsSticky : Prop :=
  (∀ (s : State) (w : RequestWord), ∃ t c d,
    step (s.issue w) = .next t ∧ t.responses = s.responses ++ [⟨c, d⟩] ∧
      (s.err ≠ none → t.err = s.err ∧ t.errop = s.errop) ∧
      (s.err = none → t.err = c ∧ t.errop = if c = none then s.errop else fieldOP w)) ∧
  (∀ (s : State) (rest : List Event), s.pending = .reset :: rest →
    ∃ t, step s = .next t ∧ t.err = none ∧ t.errop = 0x00)

/-- `60_exceptions.md` R176: exactly one fault, the first that applies, in the order E_ILLEGAL_OP, E_RESERVED, E_RANGE,
E_UNWRITTEN; and a request to which none applies responds OK. -/
def Obligations.FaultPriority : Prop :=
  ∀ (s : State) (w : RequestWord), s.Inv →
    let illegal := ∀ op, fieldOP w ≠ opCode op
    let reserved := ∃ op, fieldOP w = opCode op ∧ w &&& 0xFFFFFFFFFFFFFF00 &&& ~~~(usedMask op) ≠ 0
    let index := (w.extractLsb' 8 4).toNat
    let range := (fieldOP w = 0x11 ∧ 9 < index) ∨ (fieldOP w = 0x30 ∧ (index = 0 ∨ 12 < index))
    let unwritten := fieldOP w = 0x11 ∧ s.fvalid = false
    (illegal → step (s.issue w) = .next (s.faulted .eIllegalOp (fieldOP w))) ∧
    (¬illegal → reserved → step (s.issue w) = .next (s.faulted .eReserved (fieldOP w))) ∧
    (¬illegal → ¬reserved → range → step (s.issue w) = .next (s.faulted .eRange (fieldOP w))) ∧
    (¬illegal → ¬reserved → ¬range → unwritten → step (s.issue w) = .next (s.faulted .eUnwritten (fieldOP w))) ∧
    (¬illegal → ¬reserved → ¬range → ¬unwritten →
      ∃ t d, step (s.issue w) = .next t ∧ t.responses = s.responses ++ [⟨none, d⟩])

/-- `10_state.md` R30: only the commit of a SNAP_END and reset write DS. -/
def Obligations.OnlyACommitOrResetWritesDeviceState : Prop :=
  ∀ s t : State, step s = .next t → t.ds ≠ s.ds →
    (∃ rest, s.pending = .reset :: rest) ∨
    (∃ w rest, s.pending = .request w :: rest ∧ decode w = .ok .snapEnd ∧ s.scnt.val = 13 ∧ s.spoison = false)

/-- `20_memory.md` R60: the state each request changes (besides err and errop on a fault), which requests are
idempotent, and which are not. -/
def Obligations.SideEffectsAndIdempotency : Prop :=
  -- what changes
  (∀ (s : State) (w : RequestWord), ∃ t c d,
    step (s.issue w) = .next t ∧ t.responses = s.responses ++ [⟨c, d⟩] ∧
      t.inst = s.inst ∧ t.pending = s.pending ∧
      (isOp .crcInit w = false → isOp .crcUpdate w = false → t.crc = s.crc) ∧
      (isOp .frameEncode w = false → t.fb = s.fb ∧ t.fvalid = s.fvalid) ∧
      (isOp .snapPush w = false → t.sb = s.sb) ∧
      (isOfUnit .snapshotInput w = false → t.scnt = s.scnt ∧ t.spoison = s.spoison) ∧
      (isOp .snapEnd w = false → t.ds = s.ds ∧ t.dstat = s.dstat) ∧
      (c = none → t.err = s.err ∧ t.errop = s.errop) ∧
      (∀ f, c = some f → t = s.faulted f (fieldOP w))) ∧
  -- repeated with the same word: idempotent
  (∀ (s t : State) (w : RequestWord), isOp .crcUpdate w = false → isOp .snapPush w = false → isOp .snapEnd w = false →
    step (s.issue w) = .next t →
    ∃ u, step (t.issue w) = .next u ∧ u = { t with responses := u.responses }) ∧
  -- and not idempotent
  (∃ s t u : State, exec (.crcUpdate 0x31) s = .next t ∧ exec (.crcUpdate 0x31) t = .next u ∧ u.crc ≠ t.crc) ∧
  (∃ s t u : State, exec (.snapPush 0 true) s = .next t ∧ exec (.snapPush 0 true) t = .next u ∧ u.scnt ≠ t.scnt) ∧
  (∀ s : State, s.Inv → ∃ t u, exec .snapEnd s = .next t ∧ t.scnt.val = 0 ∧
    exec .snapEnd t = .next u ∧ u.dstat = .rejected ∧ u.ds = t.ds)

/-! ## The host's side of a request -/

/-- `00_scope.md` R15 and `30_encoding.md` R76: `wrap8` is the remainder modulo 256, negative integers too, which is
the low byte of the two's complement form; the block is sent the wrapped byte in each of A to F, and an argument that
is no integer is refused. -/
def Obligations.WrapIsModulo256 : Prop :=
  (∀ v : Int, ((wrap8 v).toNat : Int) = v % 256 ∧ wrap8 v = BitVec.ofInt 8 v) ∧
  (∀ cmd sub p1 p2 p3 p4 : Int,
    assemble (.frameEncode (.int cmd) (.int sub) [.int p1, .int p2, .int p3, .int p4]) =
      some [.frameEncode (wrap8 cmd) (wrap8 sub) (wrap8 p1) (wrap8 p2) (wrap8 p3) (wrap8 p4)]) ∧
  (∀ (cmd sub : Arg) (params : List Arg), .nonInteger ∈ cmd :: sub :: params →
    assemble (.frameEncode cmd sub params) = none)

/-- `30_encoding.md` R87: the assembler takes a line exactly when its byte operands are integers, its index operands
fit their fields and a FRAME_ENCODE has at most four parameters; an index of FRAME_READ or DS_READ that fits is
encoded, also where it names no element. That blank lines are taken, that CRC_BLOCK and SNAP_LOAD may stand without
operands and that a fifth parameter is rejected is the model's choice, log entry 11; that a SNAP_LOAD operand which is
no integer rejects the line is its reading, log entry 12. -/
def Obligations.AssemblerTakesWellFormedLines : Prop :=
  (∀ l : Line, (assemble l).isSome = l.wf) ∧
  (∀ k : Nat, k < 16 → assemble (.frameRead (.int k)) = some [.frameRead (BitVec.ofNat 4 k)] ∧
    assemble (.dsRead (.int k)) = some [.dsRead (BitVec.ofNat 4 k)])

/-- `30_encoding.md` R88: the expansions of the pseudo-instructions, their byte operands wrapped (R87). That CRC_BLOCK
and SNAP_LOAD may have no operands is the model's choice, log entry 11; that a SNAP_LOAD operand is wrapped and pushed
with V = 1, whatever integer it is, is its reading, log entry 12. -/
def Obligations.PseudoInstructionsExpand : Prop :=
  (∀ c e : Arg, assemble (.frameEncode c e []) = assemble (.frameEncode c e [.int 0, .int 0, .int 0, .int 0])) ∧
  (∀ c e p1 : Arg,
    assemble (.frameEncode c e [p1]) = assemble (.frameEncode c e [p1, .int 0, .int 0, .int 0])) ∧
  (∀ c e p1 p2 : Arg,
    assemble (.frameEncode c e [p1, p2]) = assemble (.frameEncode c e [p1, p2, .int 0, .int 0])) ∧
  (∀ c e p1 p2 p3 : Arg,
    assemble (.frameEncode c e [p1, p2, p3]) = assemble (.frameEncode c e [p1, p2, p3, .int 0])) ∧
  (∀ b : Arg, assemble (.snapPushValid b) = assemble (.snapPush b (.int 1))) ∧
  assemble .snapBad = assemble (.snapPush (.int 0) (.int 0)) ∧
  (∀ bs : List Int, assemble (.crcBlock (bs.map .int)) =
    some (.crcInit :: bs.map (fun b => .crcUpdate (wrap8 b)) ++ [.crcRead])) ∧
  (∀ es : List Int, assemble (.snapLoad (es.map .int)) =
    some (.snapBegin :: es.map (fun e => .snapPush (wrap8 e) true) ++ [.snapEnd])) ∧
  assemble .frameDump = some [.frameRead 0, .frameRead 1, .frameRead 2, .frameRead 3, .frameRead 4, .frameRead 5,
    .frameRead 6, .frameRead 7, .frameRead 8, .frameRead 9]

/-- `30_encoding.md` R86: the host marks an element valid exactly when it read an integer in 0..255, and then pushes
that integer. -/
def Obligations.ElementsAreValidBytes : Prop :=
  (∀ a : Arg, (elementOfArg a).valid = true ↔ ∃ v : Int, a = .int v ∧ 0 ≤ v ∧ v ≤ 255) ∧
  (∀ v : Int, 0 ≤ v → v ≤ 255 → ((elementOfArg (.int v)).byte.toNat : Int) = v)
end

