-- ==== Sys2Proof/Laws/Encoding.lean ====
section
/-! SUPPORT. The fields of a packed word, the opcode map, and what a clear set of reserved bits means. -/

namespace Sys2Proof

/-! ## The opcode map -/

theorem opOfCode_opCode (op : Op) : opOfCode (opCode op) = some op := by cases op <;> decide

theorem opOfCode_eq_some {code : Byte} {op : Op} (h : opOfCode code = some op) : code = opCode op := by
  have found := List.find?_some (show allOps.find? (fun op => opCode op == code) = some op from h)
  exact (beq_iff_eq.mp found).symm

theorem opOfCode_eq_some_iff {code : Byte} {op : Op} : opOfCode code = some op ↔ code = opCode op :=
  ⟨opOfCode_eq_some, fun h => h ▸ opOfCode_opCode op⟩

theorem opOfCode_eq_none_iff {code : Byte} : opOfCode code = none ↔ ∀ op, code ≠ opCode op := by
  constructor
  · intro h op he
    rw [he, opOfCode_opCode] at h
    exact absurd h (by simp)
  · intro h
    cases hc : opOfCode code with
    | none => rfl
    | some op => exact absurd (opOfCode_eq_some hc) (h op)

/-! ## Packed words -/

/-- Bit by bit, a packed word is its fields side by side, and Z is 0. -/
theorem packRequest_getLsbD (op a b c d e f : Byte) (i : Nat) :
    (packRequest op a b c d e f).getLsbD i =
      (op.getLsbD i || (decide (8 ≤ i) && a.getLsbD (i - 8)) || (decide (16 ≤ i) && b.getLsbD (i - 16)) ||
        (decide (24 ≤ i) && c.getLsbD (i - 24)) || (decide (32 ≤ i) && d.getLsbD (i - 32)) ||
        (decide (40 ≤ i) && e.getLsbD (i - 40)) || (decide (48 ≤ i) && f.getLsbD (i - 48))) := by
  by_cases h : i < 64
  · simp only [packRequest, BitVec.getLsbD_or, BitVec.getLsbD_shiftLeft, BitVec.getLsbD_setWidth, h, decide_true,
      Bool.true_and]
    have inWord (k : Nat) : decide (i - k < 64) = true := by simp; omega
    have atLeast (k : Nat) : (!decide (i < k)) = decide (k ≤ i) := by rw [← decide_not, decide_eq_decide]; omega
    simp only [inWord, atLeast, Bool.true_and]
  · have zero (x : Byte) (k : Nat) (hk : 8 ≤ k) : x.getLsbD k = false := BitVec.getLsbD_of_ge x k hk
    rw [BitVec.getLsbD_of_ge _ _ (by omega), zero op i (by omega), zero a _ (by omega), zero b _ (by omega),
      zero c _ (by omega), zero d _ (by omega), zero e _ (by omega), zero f _ (by omega)]
    simp

/-- A byte-aligned slice of a packed word, one bit at a time. -/
theorem packRequest_slice (op a b c d e f x : Byte) (lo : Nat)
    (h : ∀ j, j < 8 → (packRequest op a b c d e f).getLsbD (lo + j) = x.getLsbD j) :
    (packRequest op a b c d e f).extractLsb' lo 8 = x := by
  apply BitVec.eq_of_getLsbD_eq
  intro j hj
  simp [hj, h j hj]

section fields
variable (op a b c d e f : Byte)

@[simp] theorem fieldOP_packRequest : fieldOP (packRequest op a b c d e f) = op :=
  packRequest_slice _ _ _ _ _ _ _ _ _ fun j hj => by rw [packRequest_getLsbD]; interval_cases j <;> simp

@[simp] theorem fieldA_packRequest : fieldA (packRequest op a b c d e f) = a :=
  packRequest_slice _ _ _ _ _ _ _ _ _ fun j hj => by rw [packRequest_getLsbD]; interval_cases j <;> simp

@[simp] theorem fieldB_packRequest : fieldB (packRequest op a b c d e f) = b :=
  packRequest_slice _ _ _ _ _ _ _ _ _ fun j hj => by rw [packRequest_getLsbD]; interval_cases j <;> simp

@[simp] theorem fieldC_packRequest : fieldC (packRequest op a b c d e f) = c :=
  packRequest_slice _ _ _ _ _ _ _ _ _ fun j hj => by rw [packRequest_getLsbD]; interval_cases j <;> simp

@[simp] theorem fieldD_packRequest : fieldD (packRequest op a b c d e f) = d :=
  packRequest_slice _ _ _ _ _ _ _ _ _ fun j hj => by rw [packRequest_getLsbD]; interval_cases j <;> simp

@[simp] theorem fieldE_packRequest : fieldE (packRequest op a b c d e f) = e :=
  packRequest_slice _ _ _ _ _ _ _ _ _ fun j hj => by rw [packRequest_getLsbD]; interval_cases j <;> simp

@[simp] theorem fieldF_packRequest : fieldF (packRequest op a b c d e f) = f :=
  packRequest_slice _ _ _ _ _ _ _ _ _ fun j hj => by rw [packRequest_getLsbD]; interval_cases j <;> simp

@[simp] theorem fieldZ_packRequest : fieldZ (packRequest op a b c d e f) = 0 :=
  packRequest_slice _ _ _ _ _ _ _ _ _ fun j hj => by rw [packRequest_getLsbD]; interval_cases j <;> simp

end fields

/-- A word whose Z byte is 0 is its other fields packed. -/
theorem packRequest_fields {w : RequestWord} (hz : fieldZ w = 0) :
    packRequest (fieldOP w) (fieldA w) (fieldB w) (fieldC w) (fieldD w) (fieldE w) (fieldF w) = w := by
  apply BitVec.eq_of_getLsbD_eq
  intro i hi
  have hz : ∀ j, j < 8 → w.getLsbD (56 + j) = false := by
    intro j hj
    have := congrArg (fun v => BitVec.getLsbD v j) hz
    simpa [fieldZ, hj] using this
  rw [packRequest_getLsbD]
  simp only [fieldOP, fieldA, fieldB, fieldC, fieldD, fieldE, fieldF, BitVec.getLsbD_extractLsb']
  by_cases h56 : i < 56
  · interval_cases i <;> simp
  · rw [show i = 56 + (i - 56) by omega, hz _ (by omega)]
    have above (k : Nat) (hk : k ≤ 48) : decide (56 + (i - 56) - k < 8) = false := decide_eq_false (by omega)
    have aboveOP : decide (56 + (i - 56) < 8) = false := decide_eq_false (by omega)
    simp only [aboveOP, above 8 (by omega), above 16 (by omega), above 24 (by omega), above 32 (by omega),
      above 40 (by omega), above 48 (by omega), Bool.false_and, Bool.and_false, Bool.or_false]

/-! ## Reserved bits -/

/-- A word and-ed with a mask of its bits from `k` up is 0 exactly when its slice from `k` up is. -/
theorem and_highMask_eq_zero_iff (w : RequestWord) (k n : Nat) (hkn : k + n = 64) :
    w &&& BitVec.allOnes 64 <<< k = 0 ↔ w.extractLsb' k n = 0 := by
  constructor
  · intro h
    apply BitVec.eq_of_getLsbD_eq
    intro j hj
    have := congrArg (fun v => BitVec.getLsbD v (k + j)) h
    simp only [BitVec.getLsbD_and, BitVec.getLsbD_shiftLeft, BitVec.getLsbD_allOnes] at this
    have h1 : k + j < 64 := by omega
    have h2 : k + j - k < 64 := by omega
    simpa only [h1, h2, hj, BitVec.getLsbD_extractLsb', decide_true, decide_false, Bool.true_and, Bool.and_true,
      Bool.not_false, Nat.not_lt.2 (Nat.le_add_right k j), BitVec.ofNat_eq_ofNat, BitVec.getLsbD_zero] using this
  · intro h
    apply BitVec.eq_of_getLsbD_eq
    intro j hj
    simp only [BitVec.getLsbD_and, BitVec.getLsbD_shiftLeft, BitVec.getLsbD_allOnes]
    by_cases hk : j < k
    · simp [hk]
    · have := congrArg (fun v => BitVec.getLsbD v (j - k)) h
      simp only [BitVec.getLsbD_extractLsb'] at this
      have h1 : j - k < n := by omega
      have h2 : k + (j - k) = j := by omega
      have h3 : w.getLsbD j = false := by simpa [h1, h2] using this
      simp [h3]

/-- How many low bits of a request word an operation's reserved bits start at. -/
def reservedFrom : Op → Nat
  | .crcInit | .crcRead | .snapBegin | .snapEnd | .distRead | .statusRead => 8
  | .crcUpdate => 16
  | .frameEncode => 56
  | .frameRead | .dsRead => 12
  | .snapPush => 17
  | .dinTest => 11
  | .analogRead => 9

/-- A word's reserved bits are clear exactly when all of it above the used operand bits is 0 (`30_encoding.md` R74:
every used mask is one run of bits from bit 8 up). -/
theorem reservedBits_eq_zero_iff (op : Op) (w : RequestWord) :
    reservedBits op w = 0 ↔ w.extractLsb' (reservedFrom op) (64 - reservedFrom op) = 0 := by
  rw [← and_highMask_eq_zero_iff w (reservedFrom op) (64 - reservedFrom op) (by cases op <;> decide)]
  have hmask : (0xFFFFFFFFFFFFFF00 : RequestWord) &&& ~~~(usedMask op) = BitVec.allOnes 64 <<< reservedFrom op := by
    cases op <;> decide
  rw [reservedBits, BitVec.and_assoc, hmask]

/-- Every bit of a word at or above the place its reserved bits start at is 0. -/
theorem getLsbD_of_reservedBits_eq_zero {op : Op} {w : RequestWord} (h : reservedBits op w = 0) {j : Nat}
    (hj : reservedFrom op ≤ j) : w.getLsbD j = false := by
  by_cases h64 : j < 64
  · have := congrArg (fun v => BitVec.getLsbD v (j - reservedFrom op)) ((reservedBits_eq_zero_iff op w).1 h)
    simp only [BitVec.getLsbD_extractLsb', Nat.add_sub_cancel' hj, BitVec.ofNat_eq_ofNat, BitVec.getLsbD_zero,
      decide_eq_true (show j - reservedFrom op < 64 - reservedFrom op by omega), Bool.true_and] at this
    exact this
  · exact BitVec.getLsbD_of_ge _ _ (by omega)

/-! ## The decoder in three cases -/

theorem decode_illegal {w : RequestWord} (h : opOfCode (fieldOP w) = none) : decode w = .error .eIllegalOp := by
  unfold decode; rw [h]

theorem decode_reserved {w : RequestWord} {op : Op} (h : fieldOP w = opCode op) (hr : reservedBits op w ≠ 0) :
    decode w = .error .eReserved := by
  unfold decode; rw [h, opOfCode_opCode]; exact if_neg hr

theorem decode_dispatch {w : RequestWord} {op : Op} (h : fieldOP w = opCode op) (hr : reservedBits op w = 0) :
    decode w = .ok (instrOfFields op w) := by
  unfold decode; rw [h, opOfCode_opCode]; exact if_pos hr

end Sys2Proof
end

