-- ==== Sys2Proof/Laws/State.lean ====
section
/-! SUPPORT. What each named update of the state does to each field, so that no proof unfolds a record update. -/

namespace Sys2Proof.Machine

/-! A response changes the responses and nothing else. -/

@[simp] theorem State.addResponse_inst (r : Response) (s : State) : (s.addResponse r).inst = s.inst := rfl
@[simp] theorem State.addResponse_crc (r : Response) (s : State) : (s.addResponse r).crc = s.crc := rfl
@[simp] theorem State.addResponse_fb (r : Response) (s : State) : (s.addResponse r).fb = s.fb := rfl
@[simp] theorem State.addResponse_fvalid (r : Response) (s : State) : (s.addResponse r).fvalid = s.fvalid := rfl
@[simp] theorem State.addResponse_ds (r : Response) (s : State) : (s.addResponse r).ds = s.ds := rfl
@[simp] theorem State.addResponse_sb (r : Response) (s : State) : (s.addResponse r).sb = s.sb := rfl
@[simp] theorem State.addResponse_scnt (r : Response) (s : State) : (s.addResponse r).scnt = s.scnt := rfl
@[simp] theorem State.addResponse_spoison (r : Response) (s : State) : (s.addResponse r).spoison = s.spoison := rfl
@[simp] theorem State.addResponse_dstat (r : Response) (s : State) : (s.addResponse r).dstat = s.dstat := rfl
@[simp] theorem State.addResponse_err (r : Response) (s : State) : (s.addResponse r).err = s.err := rfl
@[simp] theorem State.addResponse_errop (r : Response) (s : State) : (s.addResponse r).errop = s.errop := rfl
@[simp] theorem State.addResponse_pending (r : Response) (s : State) : (s.addResponse r).pending = s.pending := rfl
@[simp] theorem State.addResponse_responses (r : Response) (s : State) : (s.addResponse r).responses = s.responses ++ [r] := rfl

/-! The CRC register. -/

@[simp] theorem State.setCrc_inst (c : Crc) (s : State) : (s.setCrc c).inst = s.inst := rfl
@[simp] theorem State.setCrc_crc (c : Crc) (s : State) : (s.setCrc c).crc = c := rfl
@[simp] theorem State.setCrc_fb (c : Crc) (s : State) : (s.setCrc c).fb = s.fb := rfl
@[simp] theorem State.setCrc_fvalid (c : Crc) (s : State) : (s.setCrc c).fvalid = s.fvalid := rfl
@[simp] theorem State.setCrc_ds (c : Crc) (s : State) : (s.setCrc c).ds = s.ds := rfl
@[simp] theorem State.setCrc_sb (c : Crc) (s : State) : (s.setCrc c).sb = s.sb := rfl
@[simp] theorem State.setCrc_scnt (c : Crc) (s : State) : (s.setCrc c).scnt = s.scnt := rfl
@[simp] theorem State.setCrc_spoison (c : Crc) (s : State) : (s.setCrc c).spoison = s.spoison := rfl
@[simp] theorem State.setCrc_dstat (c : Crc) (s : State) : (s.setCrc c).dstat = s.dstat := rfl
@[simp] theorem State.setCrc_err (c : Crc) (s : State) : (s.setCrc c).err = s.err := rfl
@[simp] theorem State.setCrc_errop (c : Crc) (s : State) : (s.setCrc c).errop = s.errop := rfl
@[simp] theorem State.setCrc_pending (c : Crc) (s : State) : (s.setCrc c).pending = s.pending := rfl
@[simp] theorem State.setCrc_responses (c : Crc) (s : State) : (s.setCrc c).responses = s.responses := rfl

/-! The frame buffer and its flag. -/

@[simp] theorem State.setFrame_inst (f : Frame) (s : State) : (s.setFrame f).inst = s.inst := rfl
@[simp] theorem State.setFrame_crc (f : Frame) (s : State) : (s.setFrame f).crc = s.crc := rfl
@[simp] theorem State.setFrame_fb (f : Frame) (s : State) : (s.setFrame f).fb = some f := rfl
@[simp] theorem State.setFrame_fvalid (f : Frame) (s : State) : (s.setFrame f).fvalid = true := rfl
@[simp] theorem State.setFrame_ds (f : Frame) (s : State) : (s.setFrame f).ds = s.ds := rfl
@[simp] theorem State.setFrame_sb (f : Frame) (s : State) : (s.setFrame f).sb = s.sb := rfl
@[simp] theorem State.setFrame_scnt (f : Frame) (s : State) : (s.setFrame f).scnt = s.scnt := rfl
@[simp] theorem State.setFrame_spoison (f : Frame) (s : State) : (s.setFrame f).spoison = s.spoison := rfl
@[simp] theorem State.setFrame_dstat (f : Frame) (s : State) : (s.setFrame f).dstat = s.dstat := rfl
@[simp] theorem State.setFrame_err (f : Frame) (s : State) : (s.setFrame f).err = s.err := rfl
@[simp] theorem State.setFrame_errop (f : Frame) (s : State) : (s.setFrame f).errop = s.errop := rfl
@[simp] theorem State.setFrame_pending (f : Frame) (s : State) : (s.setFrame f).pending = s.pending := rfl
@[simp] theorem State.setFrame_responses (f : Frame) (s : State) : (s.setFrame f).responses = s.responses := rfl

/-! Staging an element. -/

@[simp] theorem State.stage_inst (a : Byte) (v : Bool) (s : State) : (s.stage a v).inst = s.inst := rfl
@[simp] theorem State.stage_crc (a : Byte) (v : Bool) (s : State) : (s.stage a v).crc = s.crc := rfl
@[simp] theorem State.stage_fb (a : Byte) (v : Bool) (s : State) : (s.stage a v).fb = s.fb := rfl
@[simp] theorem State.stage_fvalid (a : Byte) (v : Bool) (s : State) : (s.stage a v).fvalid = s.fvalid := rfl
@[simp] theorem State.stage_ds (a : Byte) (v : Bool) (s : State) : (s.stage a v).ds = s.ds := rfl
@[simp] theorem State.stage_sb (a : Byte) (v : Bool) (s : State) : (s.stage a v).sb = stagedWith s.sb s.scnt a := rfl
@[simp] theorem State.stage_scnt (a : Byte) (v : Bool) (s : State) : (s.stage a v).scnt = nextCount s.scnt := rfl
@[simp] theorem State.stage_spoison (a : Byte) (v : Bool) (s : State) : (s.stage a v).spoison = (s.spoison || !v) := rfl
@[simp] theorem State.stage_dstat (a : Byte) (v : Bool) (s : State) : (s.stage a v).dstat = s.dstat := rfl
@[simp] theorem State.stage_err (a : Byte) (v : Bool) (s : State) : (s.stage a v).err = s.err := rfl
@[simp] theorem State.stage_errop (a : Byte) (v : Bool) (s : State) : (s.stage a v).errop = s.errop := rfl
@[simp] theorem State.stage_pending (a : Byte) (v : Bool) (s : State) : (s.stage a v).pending = s.pending := rfl
@[simp] theorem State.stage_responses (a : Byte) (v : Bool) (s : State) : (s.stage a v).responses = s.responses := rfl

/-! Clearing the count and the poison flag. -/

@[simp] theorem State.clearStaging_inst (s : State) : (s.clearStaging).inst = s.inst := rfl
@[simp] theorem State.clearStaging_crc (s : State) : (s.clearStaging).crc = s.crc := rfl
@[simp] theorem State.clearStaging_fb (s : State) : (s.clearStaging).fb = s.fb := rfl
@[simp] theorem State.clearStaging_fvalid (s : State) : (s.clearStaging).fvalid = s.fvalid := rfl
@[simp] theorem State.clearStaging_ds (s : State) : (s.clearStaging).ds = s.ds := rfl
@[simp] theorem State.clearStaging_sb (s : State) : (s.clearStaging).sb = s.sb := rfl
@[simp] theorem State.clearStaging_scnt (s : State) : (s.clearStaging).scnt = 0 := rfl
@[simp] theorem State.clearStaging_spoison (s : State) : (s.clearStaging).spoison = false := rfl
@[simp] theorem State.clearStaging_dstat (s : State) : (s.clearStaging).dstat = s.dstat := rfl
@[simp] theorem State.clearStaging_err (s : State) : (s.clearStaging).err = s.err := rfl
@[simp] theorem State.clearStaging_errop (s : State) : (s.clearStaging).errop = s.errop := rfl
@[simp] theorem State.clearStaging_pending (s : State) : (s.clearStaging).pending = s.pending := rfl
@[simp] theorem State.clearStaging_responses (s : State) : (s.clearStaging).responses = s.responses := rfl

/-! A commit. -/

@[simp] theorem State.commit_inst (fields : Vector Byte 12) (s : State) : (s.commit fields).inst = s.inst := rfl
@[simp] theorem State.commit_crc (fields : Vector Byte 12) (s : State) : (s.commit fields).crc = s.crc := rfl
@[simp] theorem State.commit_fb (fields : Vector Byte 12) (s : State) : (s.commit fields).fb = s.fb := rfl
@[simp] theorem State.commit_fvalid (fields : Vector Byte 12) (s : State) : (s.commit fields).fvalid = s.fvalid := rfl
@[simp] theorem State.commit_ds (fields : Vector Byte 12) (s : State) : (s.commit fields).ds = fields := rfl
@[simp] theorem State.commit_sb (fields : Vector Byte 12) (s : State) : (s.commit fields).sb = s.sb := rfl
@[simp] theorem State.commit_scnt (fields : Vector Byte 12) (s : State) : (s.commit fields).scnt = s.scnt := rfl
@[simp] theorem State.commit_spoison (fields : Vector Byte 12) (s : State) : (s.commit fields).spoison = s.spoison := rfl
@[simp] theorem State.commit_dstat (fields : Vector Byte 12) (s : State) : (s.commit fields).dstat = .committed := rfl
@[simp] theorem State.commit_err (fields : Vector Byte 12) (s : State) : (s.commit fields).err = s.err := rfl
@[simp] theorem State.commit_errop (fields : Vector Byte 12) (s : State) : (s.commit fields).errop = s.errop := rfl
@[simp] theorem State.commit_pending (fields : Vector Byte 12) (s : State) : (s.commit fields).pending = s.pending := rfl
@[simp] theorem State.commit_responses (fields : Vector Byte 12) (s : State) : (s.commit fields).responses = s.responses := rfl

/-! A reject. -/

@[simp] theorem State.reject_inst (s : State) : (s.reject).inst = s.inst := rfl
@[simp] theorem State.reject_crc (s : State) : (s.reject).crc = s.crc := rfl
@[simp] theorem State.reject_fb (s : State) : (s.reject).fb = s.fb := rfl
@[simp] theorem State.reject_fvalid (s : State) : (s.reject).fvalid = s.fvalid := rfl
@[simp] theorem State.reject_ds (s : State) : (s.reject).ds = s.ds := rfl
@[simp] theorem State.reject_sb (s : State) : (s.reject).sb = s.sb := rfl
@[simp] theorem State.reject_scnt (s : State) : (s.reject).scnt = s.scnt := rfl
@[simp] theorem State.reject_spoison (s : State) : (s.reject).spoison = s.spoison := rfl
@[simp] theorem State.reject_dstat (s : State) : (s.reject).dstat = .rejected := rfl
@[simp] theorem State.reject_err (s : State) : (s.reject).err = s.err := rfl
@[simp] theorem State.reject_errop (s : State) : (s.reject).errop = s.errop := rfl
@[simp] theorem State.reject_pending (s : State) : (s.reject).pending = s.pending := rfl
@[simp] theorem State.reject_responses (s : State) : (s.reject).responses = s.responses := rfl

/-! Reset on a running instance. -/

@[simp] theorem State.resetEvent_inst (s : State) : (s.resetEvent).inst = s.inst := rfl
@[simp] theorem State.resetEvent_crc (s : State) : (s.resetEvent).crc = 0 := rfl
@[simp] theorem State.resetEvent_fb (s : State) : (s.resetEvent).fb = none := rfl
@[simp] theorem State.resetEvent_fvalid (s : State) : (s.resetEvent).fvalid = false := rfl
@[simp] theorem State.resetEvent_ds (s : State) : (s.resetEvent).ds = Vector.replicate 12 0 := rfl
@[simp] theorem State.resetEvent_sb (s : State) : (s.resetEvent).sb = Vector.replicate 13 none := rfl
@[simp] theorem State.resetEvent_scnt (s : State) : (s.resetEvent).scnt = 0 := rfl
@[simp] theorem State.resetEvent_spoison (s : State) : (s.resetEvent).spoison = false := rfl
@[simp] theorem State.resetEvent_dstat (s : State) : (s.resetEvent).dstat = .noneYet := rfl
@[simp] theorem State.resetEvent_err (s : State) : (s.resetEvent).err = none := rfl
@[simp] theorem State.resetEvent_errop (s : State) : (s.resetEvent).errop = 0 := rfl
@[simp] theorem State.resetEvent_pending (s : State) : (s.resetEvent).pending = s.pending := rfl
@[simp] theorem State.resetEvent_responses (s : State) : (s.resetEvent).responses = s.responses := rfl

/-! Recording a fault: err and errop, and those only while err holds none. -/

@[simp] theorem State.recordFault_inst (c : FaultCode) (op : Byte) (s : State) :
    (s.recordFault c op).inst = s.inst := by
  unfold State.recordFault; split <;> simp_all
@[simp] theorem State.recordFault_crc (c : FaultCode) (op : Byte) (s : State) :
    (s.recordFault c op).crc = s.crc := by
  unfold State.recordFault; split <;> simp_all
@[simp] theorem State.recordFault_fb (c : FaultCode) (op : Byte) (s : State) :
    (s.recordFault c op).fb = s.fb := by
  unfold State.recordFault; split <;> simp_all
@[simp] theorem State.recordFault_fvalid (c : FaultCode) (op : Byte) (s : State) :
    (s.recordFault c op).fvalid = s.fvalid := by
  unfold State.recordFault; split <;> simp_all
@[simp] theorem State.recordFault_ds (c : FaultCode) (op : Byte) (s : State) :
    (s.recordFault c op).ds = s.ds := by
  unfold State.recordFault; split <;> simp_all
@[simp] theorem State.recordFault_sb (c : FaultCode) (op : Byte) (s : State) :
    (s.recordFault c op).sb = s.sb := by
  unfold State.recordFault; split <;> simp_all
@[simp] theorem State.recordFault_scnt (c : FaultCode) (op : Byte) (s : State) :
    (s.recordFault c op).scnt = s.scnt := by
  unfold State.recordFault; split <;> simp_all
@[simp] theorem State.recordFault_spoison (c : FaultCode) (op : Byte) (s : State) :
    (s.recordFault c op).spoison = s.spoison := by
  unfold State.recordFault; split <;> simp_all
@[simp] theorem State.recordFault_dstat (c : FaultCode) (op : Byte) (s : State) :
    (s.recordFault c op).dstat = s.dstat := by
  unfold State.recordFault; split <;> simp_all
@[simp] theorem State.recordFault_err (c : FaultCode) (op : Byte) (s : State) :
    (s.recordFault c op).err = if s.err = none then some c else s.err := by
  unfold State.recordFault; split <;> simp_all
@[simp] theorem State.recordFault_errop (c : FaultCode) (op : Byte) (s : State) :
    (s.recordFault c op).errop = if s.err = none then op else s.errop := by
  unfold State.recordFault; split <;> simp_all
@[simp] theorem State.recordFault_pending (c : FaultCode) (op : Byte) (s : State) :
    (s.recordFault c op).pending = s.pending := by
  unfold State.recordFault; split <;> simp_all
@[simp] theorem State.recordFault_responses (c : FaultCode) (op : Byte) (s : State) :
    (s.recordFault c op).responses = s.responses := by
  unfold State.recordFault; split <;> simp_all

end Sys2Proof.Machine
end

