-- ==== Sys2Proof/Laws/Ops.lean ====
section
/-! SUPPORT. One lemma for each shared operation that says everything it can do, and the small lemmas of its parts. -/

namespace Sys2Proof.Machine

/-! ## Responses, faults and the request port -/

theorem respond_eq (d : Data) (s : State) : respond d s = .next (s.answered d) := rfl

theorem takeFault_eq (c : FaultCode) (op : Byte) (s : State) : takeFault c op s = .next (s.faulted c op) := by
  unfold takeFault State.recordFault State.faulted State.addResponse
  cases h : s.err <;> simp [h]

theorem takeEvent_nil {s : State} (h : s.pending = []) : takeEvent s = none := by
  unfold takeEvent; rw [h]

theorem takeEvent_cons {s : State} {e : Event} {rest : List Event} (h : s.pending = e :: rest) :
    takeEvent s = some (e, { s with pending := rest }) := by
  unfold takeEvent; rw [h]

theorem step_nil {s : State} (h : s.pending = []) : step s = .next s := by
  unfold step; rw [takeEvent_nil h]

theorem step_request {s : State} {w : RequestWord} {rest : List Event} (h : s.pending = .request w :: rest) :
    step s = serve w { s with pending := rest } := by
  unfold step; rw [takeEvent_cons h]

theorem step_reset {s : State} {rest : List Event} (h : s.pending = .reset :: rest) :
    step s = .next (State.resetEvent { s with pending := rest }) := by
  unfold step; rw [takeEvent_cons h]

/-- A request the host issues next is served in the state it was issued in. -/
@[simp] theorem step_issue (s : State) (w : RequestWord) : step (s.issue w) = serve w s :=
  step_request rfl

theorem serve_ok {w : RequestWord} {i : Instr} (h : decode w = .ok i) (s : State) : serve w s = exec i s := by
  unfold serve; rw [h]

theorem serve_error {w : RequestWord} {c : FaultCode} (h : decode w = .error c) (s : State) :
    serve w s = .next (s.faulted c (fieldOP w)) := by
  unfold serve; rw [h]; exact takeFault_eq c _ s

/-! ## The CRC function -/

theorem crcShift_zero : crcShift 0 = 0 := by decide

/-- A shift is linear over GF(2): the polynomial is folded in by the top bit alone. -/
theorem crcShift_xor (a b : Crc) : crcShift (a ^^^ b) = crcShift a ^^^ crcShift b := by
  unfold crcShift
  rw [BitVec.getLsbD_xor, BitVec.shiftLeft_xor_distrib]
  cases a.getLsbD 15 <;> cases b.getLsbD 15 <;> simp only [bne_self_eq_false, Bool.false_bne, Bool.bne_false,
    Bool.false_eq_true, ↓reduceIte]
  · ac_rfl
  · ac_rfl
  · rw [show a <<< 1 ^^^ crcPoly ^^^ (b <<< 1 ^^^ crcPoly) = a <<< 1 ^^^ b <<< 1 ^^^ (crcPoly ^^^ crcPoly) by ac_rfl,
      BitVec.xor_self, BitVec.xor_zero]

theorem crcShifts_zero (n : Nat) : crcShifts n 0 = 0 := by
  induction n with
  | zero => rfl
  | succ n ih => rw [crcShifts, crcShift_zero, ih]

theorem crcShifts_xor (n : Nat) (a b : Crc) : crcShifts n (a ^^^ b) = crcShifts n a ^^^ crcShifts n b := by
  induction n generalizing a b with
  | zero => rfl
  | succ n ih => simp only [crcShifts]; rw [crcShift_xor, ih]

theorem crcStep_zero : crcStep 0 0 = 0 := crcShifts_zero 8

/-- A step is linear in the remainder and the byte together. -/
theorem crcStep_xor (c d : Crc) (a b : Byte) : crcStep (c ^^^ d) (a ^^^ b) = crcStep c a ^^^ crcStep d b := by
  unfold crcStep
  rw [← crcShifts_xor, BitVec.setWidth_xor, BitVec.shiftLeft_xor_distrib]
  congr 1
  ac_rfl

theorem crcHi_append_crcLo (c : Crc) : crcHi c ++ crcLo c = c := by
  unfold crcHi crcLo
  apply BitVec.eq_of_getLsbD_eq
  intro i hi
  rw [BitVec.getLsbD_append, BitVec.getLsbD_extractLsb', BitVec.getLsbD_extractLsb']
  split
  · simp_all
  · rw [show 8 + (i - 8) = i by omega, decide_eq_true (by omega : i - 8 < 8), Bool.true_and]

/-- A CRC is its high byte on top of its low byte. -/
theorem crc_eq_hi_lo (c : Crc) : c = (crcHi c).setWidth 16 <<< 8 ^^^ (crcLo c).setWidth 16 := by
  apply BitVec.eq_of_getLsbD_eq
  intro i hi
  simp only [crcHi, crcLo, BitVec.getLsbD_xor, BitVec.getLsbD_shiftLeft, BitVec.getLsbD_setWidth,
    BitVec.getLsbD_extractLsb']
  interval_cases i <;> simp

/-- Eight shifts of a low byte never fold the polynomial in. -/
theorem crcShifts_lowByte : ∀ b : Byte, crcShifts 8 (b.setWidth 16) = b.setWidth 16 <<< 8 := by decide +kernel

/-! ## The stores -/

@[simp] theorem fbByte_setFrame (f : Frame) (s : State) (i : Nat) : (s.setFrame f).fbByte i = f[i]? := rfl

theorem dsByte_succ (s : State) {i : Nat} (h : i < 12) : s.dsByte (i + 1) = some s.ds[i] :=
  Vector.getElem?_eq_getElem h

theorem dsByte_isSome_iff (s : State) (i : Nat) : (s.dsByte i).isSome = true ↔ 1 ≤ i ∧ i ≤ 12 := by
  cases i with
  | zero => simp [State.dsByte]
  | succ k => simp [State.dsByte, Nat.lt_succ_iff]

theorem sbByte_eq (s : State) {i : Nat} (h : i < 13) : s.sbByte i = s.sb[i] := by
  unfold State.sbByte; rw [Vector.getElem?_eq_getElem h]; rfl

/-- Staging a byte writes SB[scnt] alone, and nothing once scnt is 13 or more. -/
theorem stagedWith_getElem (sb : Vector (Option Byte) 13) (scnt : Fin 15) (a : Byte) {i : Nat} (h : i < 13) :
    (stagedWith sb scnt a)[i] = if i = scnt.val then some a else sb[i] := by
  unfold stagedWith
  split
  · rw [Vector.getElem_set]; simp only [eq_comm]
  · rw [if_neg (by omega)]

theorem nextCount_val (scnt : Fin 15) : (nextCount scnt).val = min (scnt.val + 1) 14 := rfl

theorem accepts_iff (s : State) : s.accepts = true ↔ s.scnt.val = 13 ∧ s.spoison = false := by
  simp [State.accepts]

/-- The twelve bytes of a commit are exactly SB[1..12]. -/
theorem stagedFields_eq_some_iff (sb : Vector (Option Byte) 13) (fields : Vector Byte 12) :
    stagedFields sb = some fields ↔ ∀ i : Fin 12, sb[i.val + 1] = some fields[i.val] := by
  unfold stagedFields
  constructor
  · intro h i
    split at h
    · obtain rfl := Option.some.inj h
      simp
    · exact absurd h (by simp)
  · intro h
    rw [dif_pos fun i => by rw [h i]; rfl]
    congr 1
    ext i hi
    simp [h ⟨i, hi⟩]

theorem stagedFields_eq_none_iff (sb : Vector (Option Byte) 13) :
    stagedFields sb = none ↔ ∃ i : Fin 12, sb[i.val + 1] = none := by
  unfold stagedFields
  split <;> rename_i h
  · simp only [reduceCtorEq, false_iff, not_exists]
    intro i hi
    simpa [hi] using h i
  · simpa using h

theorem clamp255_eq (v : Byte) : clamp255 v = v := by
  unfold clamp255
  have := v.isLt
  rw [Nat.min_eq_left (by omega), BitVec.ofNat_toNat, BitVec.setWidth_eq]

/-! ## What SNAP_END can do -/

/-- SNAP_END commits a well-formed payload, faults on a staged entry with no value, or rejects. -/
theorem execSnapEnd_cases (s : State) :
    (∃ fields, s.accepts = true ∧ stagedFields s.sb = some fields ∧
      execSnapEnd s = .next ((s.commit fields).clearStaging.answered 1)) ∨
    (s.accepts = true ∧ stagedFields s.sb = none ∧ execSnapEnd s = .next (s.faulted .eUnwritten 0x22)) ∨
    (s.accepts = false ∧ execSnapEnd s = .next (s.reject.clearStaging.answered 0)) := by
  unfold execSnapEnd
  cases ha : s.accepts with
  | false => exact .inr (.inr ⟨rfl, by simp [respond_eq]⟩)
  | true =>
    cases hf : stagedFields s.sb with
    | none => exact .inr (.inl ⟨rfl, rfl, by simp [takeFault_eq, opCode]⟩)
    | some fields => exact .inl ⟨fields, rfl, rfl, by simp [respond_eq]⟩

/-- FRAME_READ returns a byte of FB, or faults with E_RANGE or E_UNWRITTEN. -/
theorem execFrameRead_cases (i : BitVec 4) (s : State) :
    (∃ b, i.toNat ≤ 9 ∧ s.fvalid = true ∧ s.fbByte i.toNat = some b ∧
      execFrameRead i s = .next (s.answered (zext32 b))) ∨
    (9 < i.toNat ∧ execFrameRead i s = .next (s.faulted .eRange 0x11)) ∨
    (i.toNat ≤ 9 ∧ (s.fvalid = false ∨ s.fbByte i.toNat = none) ∧
      execFrameRead i s = .next (s.faulted .eUnwritten 0x11)) := by
  unfold execFrameRead
  by_cases hi : i.toNat ≤ 9
  · cases hv : s.fvalid with
    | false => exact .inr (.inr ⟨hi, .inl rfl, by simp [frameIndexOk, hi, takeFault_eq, opCode]⟩)
    | true =>
      cases hb : s.fbByte i.toNat with
      | none => exact .inr (.inr ⟨hi, .inr rfl, by simp [frameIndexOk, hi, takeFault_eq, opCode]⟩)
      | some b => exact .inl ⟨b, hi, rfl, rfl, by simp [frameIndexOk, hi, respond_eq]⟩
  · exact .inr (.inl ⟨by omega, by simp [frameIndexOk, hi, takeFault_eq, opCode]⟩)

/-- DS_READ returns an entry, or faults with E_RANGE. -/
theorem execDsRead_cases (i : BitVec 4) (s : State) :
    (∃ b, 1 ≤ i.toNat ∧ i.toNat ≤ 12 ∧ s.dsByte i.toNat = some b ∧
      execDsRead i s = .next (s.answered (zext32 b))) ∨
    ((i.toNat = 0 ∨ 12 < i.toNat) ∧ execDsRead i s = .next (s.faulted .eRange 0x30)) := by
  have hrange := dsByte_isSome_iff s i.toNat
  unfold execDsRead
  cases hb : s.dsByte i.toNat with
  | some b =>
    rw [hb] at hrange
    exact .inl ⟨b, (hrange.1 rfl).1, (hrange.1 rfl).2, rfl, respond_eq _ _⟩
  | none =>
    rw [hb] at hrange
    refine .inr ⟨?_, by simp [takeFault_eq, opCode]⟩
    have : ¬(1 ≤ i.toNat ∧ i.toNat ≤ 12) := fun h => absurd (hrange.2 h) (by simp)
    omega

end Sys2Proof.Machine
end

