-- ==== Sys2Proof/Laws/PerInstr.lean ====
section
/-! SUPPORT. Facts about every instruction as syntax, one lemma per constructor. -/

namespace Sys2Proof.Laws.WordShape

/-- The word of an instruction carries its operation's OP, a zero Z byte, and no 1 outside the operation's used mask
(`30_encoding.md` R70, R73, R74). -/
def Statement (i : Instr) : Prop :=
  fieldOP (encode i) = opCode i.op ∧ fieldZ (encode i) = 0 ∧ reservedBits i.op (encode i) = 0

/-- A packed word with byte operands up to A only, A within `n` bits, has nothing from bit `8 + n` up. -/
theorem slice_above_A (op a : Byte) (n : Nat) (ha : ∀ j, n ≤ j → a.getLsbD j = false) (hn : n ≤ 8) :
    (packRequest op a 0 0 0 0 0).extractLsb' (8 + n) (64 - (8 + n)) = 0 := by
  apply BitVec.eq_of_getLsbD_eq
  intro j hj
  simp only [BitVec.getLsbD_extractLsb', packRequest_getLsbD, hj]
  have h1 : op.getLsbD (8 + n + j) = false := BitVec.getLsbD_of_ge _ _ (by omega)
  have h2 : a.getLsbD (8 + n + j - 8) = false := ha _ (by omega)
  simp [h1, h2]

theorem crcInit : Statement .crcInit := by unfold Statement; decide

theorem crcUpdate (a : Byte) : Statement (.crcUpdate a) := by
  refine ⟨by simp [encode], by simp [encode], (reservedBits_eq_zero_iff _ _).2 ?_⟩
  exact slice_above_A _ a 8 (fun j hj => BitVec.getLsbD_of_ge a j hj) (by omega)

theorem crcRead : Statement .crcRead := by unfold Statement; decide

theorem frameEncode (cmd sub p1 p2 p3 p4 : Byte) : Statement (.frameEncode cmd sub p1 p2 p3 p4) := by
  refine ⟨by simp [encode], by simp [encode], (reservedBits_eq_zero_iff _ _).2 ?_⟩
  exact fieldZ_packRequest _ cmd sub p1 p2 p3 p4

theorem frameRead (k : BitVec 4) : Statement (.frameRead k) := by
  refine ⟨by simp [encode], by simp [encode], (reservedBits_eq_zero_iff _ _).2 ?_⟩
  exact slice_above_A _ (k.setWidth 8) 4 (fun j hj => by simp [BitVec.getLsbD_of_ge k j hj]) (by omega)

theorem snapBegin : Statement .snapBegin := by unfold Statement; decide

theorem snapPush (a : Byte) (v : Bool) : Statement (.snapPush a v) := by
  refine ⟨by simp [encode], by simp [encode], (reservedBits_eq_zero_iff _ _).2 ?_⟩
  apply BitVec.eq_of_getLsbD_eq
  intro j hj
  rw [show (0 : BitVec (64 - reservedFrom (Instr.snapPush a v).op)).getLsbD j = false from BitVec.getLsbD_zero]
  simp only [encode, reservedFrom, Instr.op, BitVec.getLsbD_extractLsb', packRequest_getLsbD]
  have h1 : (opCode .snapPush).getLsbD (17 + j) = false := BitVec.getLsbD_of_ge _ _ (by omega)
  have h2 : a.getLsbD (17 + j - 8) = false := BitVec.getLsbD_of_ge _ _ (by omega)
  have h3 : ((BitVec.ofBool v).setWidth 8).getLsbD (17 + j - 16) = false := by
    simp [BitVec.getLsbD_of_ge (BitVec.ofBool v) (17 + j - 16) (by omega)]
  simp [h1, h2, h3]

theorem snapEnd : Statement .snapEnd := by unfold Statement; decide

theorem dsRead (k : BitVec 4) : Statement (.dsRead k) := by
  refine ⟨by simp [encode], by simp [encode], (reservedBits_eq_zero_iff _ _).2 ?_⟩
  exact slice_above_A _ (k.setWidth 8) 4 (fun j hj => by simp [BitVec.getLsbD_of_ge k j hj]) (by omega)

theorem dinTest (k : BitVec 3) : Statement (.dinTest k) := by
  refine ⟨by simp [encode], by simp [encode], (reservedBits_eq_zero_iff _ _).2 ?_⟩
  exact slice_above_A _ (k.setWidth 8) 3 (fun j hj => by simp [BitVec.getLsbD_of_ge k j hj]) (by omega)

theorem distRead : Statement .distRead := by unfold Statement; decide

theorem analogRead (ch : BitVec 1) : Statement (.analogRead ch) := by
  refine ⟨by simp [encode], by simp [encode], (reservedBits_eq_zero_iff _ _).2 ?_⟩
  exact slice_above_A _ (ch.setWidth 8) 1 (fun j hj => by simp [BitVec.getLsbD_of_ge ch j hj]) (by omega)

theorem statusRead : Statement .statusRead := by unfold Statement; decide

end Sys2Proof.Laws.WordShape
end

