-- ==== Sys2Proof/Laws/Run.lean ====
section
/-! SUPPORT. Runs, one event at a time. -/

namespace Sys2Proof.Machine

/-- A run goes on from the state a step leaves. -/
theorem run_succ_of_step {s t : State} (h : step s = .next t) (n : Nat) :
    Host.Core.run Sys2Proof.core (n + 1) s = Host.Core.run Sys2Proof.core n t := by
  have hs : Sys2Proof.core.step s = .next t := h
  simp only [Host.Core.run, hs]

theorem runAll_nil {s : State} (h : s.pending = []) : runAll s = .next s := by
  unfold runAll; rw [h]; rfl

/-- The run of everything issued, one event taken off. -/
theorem runAll_cons {s t : State} {e : Event} {rest : List Event} (h : s.pending = e :: rest)
    (hs : step s = .next t) (ht : t.pending = rest) : runAll s = runAll t := by
  unfold runAll; rw [h, ht]; exact run_succ_of_step hs rest.length

@[simp] theorem issueAll_pending (ws : List RequestWord) (s : State) :
    (s.issueAll ws).pending = ws.map .request := rfl

/-- Interleaving keeps every request of both streams, and adds none. -/
theorem Interleaving.mem_iff {xs ys merged : List RequestWord} (h : Interleaving xs ys merged) (w : RequestWord) :
    w ∈ merged ↔ w ∈ xs ∨ w ∈ ys := by
  induction h with
  | done => simp
  | left v _ ih => simp only [List.mem_cons, ih, or_assoc]
  | right v _ ih => simp only [List.mem_cons, ih]; tauto

end Sys2Proof.Machine
end

