-- ==== Sys2Proof/Tests/Slice0.lean ====
section
/-! SUPPORT. Tests of single requests, with expected results from `spec/95_test_vectors.md` and the spec's own examples,
and for each statement with hypotheses a witness that meets them. -/

namespace Sys2Proof.Tests
open Sys2Proof Sys2Proof.Machine

/-! ## Small states -/

/-- The state after reset of an instance with the TV parameters (`00_scope.md` R17). -/
def tv : State := State.resetOf ⟨0xAA, 0x55⟩

/-- The DeviceState of the spec's state COMMITTED (`95_test_vectors.md`). -/
def committedFields : Vector Byte 12 := #v[0x05, 0x2A, 0x80, 0xC8, 0x5A, 0x2D, 0xFF, 0x00, 0x00, 0x00, 0xFF, 0x00]

/-- The spec's state COMMITTED, as far as reads see it. -/
def committed : State := { tv with ds := committedFields, dstat := .committed }

/-- The frame of `41_frame.md` R121's example. -/
def exampleFrame : Frame := #v[0xAA, 0x03, 0x01, 0x5A, 0x00, 0x00, 0x00, 0x55, 0xC4, 0xEE]

/-- A state whose FB holds that frame. -/
def encoded : State := { tv with fb := some exampleFrame, fvalid := true }

/-- 13 elements staged, the payload of `42_snapshot.md` R143's example. -/
def staged : State :=
  { tv with
    sb := #v[some 0x00, some 0x05, some 0x2A, some 0x80, some 0xC8, some 0x5A, some 0x2D, some 0xFF, some 0x00,
      some 0x00, some 0x00, some 0xFF, some 0x00]
    scnt := 13 }

/-- The last response a result leaves. -/
def answer : Result → Option Response
  | .next t => t.responses.getLast?
  | .fault _ => none
  | .refused _ => none

/-- A view of the state a result leaves. -/
def after {α : Type} (view : State → α) : Result → Option α
  | .next t => some (view t)
  | .fault _ => none
  | .refused _ => none

/-! ## Decoding: words written out from the encodings, one or more for each family (`opcode_table.json`) -/

-- CRC_INIT: OP 00000001, the rest 0
theorem test_decode_crcInit : decodeTableWord 64 0b00000001 = some .crcInit := by decide
-- CRC_UPDATE 0x31 (`40_crc.md` R103)
theorem test_decode_crcUpdate : decodeTableWord 64 0b00110001_00000010 = some (.crcUpdate 0x31) := by decide
-- CRC_READ
theorem test_decode_crcRead : decodeTableWord 64 0b00000011 = some .crcRead := by decide
-- FRAME_ENCODE 1, 0, 1, 2, 3, 4 (`95_test_vectors.md` V4): F E D C B A OP
theorem test_decode_frameEncode :
    decodeTableWord 64 0b00000100_00000011_00000010_00000001_00000000_00000001_00010000 =
      some (.frameEncode 1 0 1 2 3 4) := by decide
-- FRAME_READ 8 (`41_frame.md` R128)
theorem test_decode_frameRead : decodeTableWord 64 0b1000_00010001 = some (.frameRead 8) := by decide
-- SNAP_BEGIN
theorem test_decode_snapBegin : decodeTableWord 64 0b00100000 = some .snapBegin := by decide
-- SNAP_PUSH 42, 1 (`42_snapshot.md` R142) and SNAP_BAD (`30_encoding.md` R88)
theorem test_decode_snapPush : decodeTableWord 64 0b1_00101010_00100001 = some (.snapPush 42 true) := by decide
theorem test_decode_snapBad : decodeTableWord 64 0b00100001 = some (.snapPush 0 false) := by decide
-- SNAP_END
theorem test_decode_snapEnd : decodeTableWord 64 0b00100010 = some .snapEnd := by decide
-- DS_READ 5 (`42_snapshot.md` R150)
theorem test_decode_dsRead : decodeTableWord 64 0b0101_00110000 = some (.dsRead 5) := by decide
-- DIN_TEST 2 (`42_snapshot.md` R151)
theorem test_decode_dinTest : decodeTableWord 64 0b010_00110001 = some (.dinTest 2) := by decide
-- DIST_READ
theorem test_decode_distRead : decodeTableWord 64 0b00110010 = some .distRead := by decide
-- ANALOG_READ 1 (`42_snapshot.md` R153)
theorem test_decode_analogRead : decodeTableWord 64 0b1_00110011 = some (.analogRead 1) := by decide
-- STATUS_READ
theorem test_decode_statusRead : decodeTableWord 64 0b01000000 = some .statusRead := by decide
-- T8 rows 1, 5 and 7; T1 row 7; T2 row 3; T7 rows 28 to 30; T5 row 19
theorem test_decode_illegal : [0x00, 0x41, 0xFF04].map decode =
    [.error .eIllegalOp, .error .eIllegalOp, .error .eIllegalOp] := by decide
theorem test_decode_reserved : [0x0100000000000001, 0x1C11, 0x0831, 0x0233, 0x0132, 0x30721].map decode =
    [.error .eReserved, .error .eReserved, .error .eReserved, .error .eReserved, .error .eReserved,
      .error .eReserved] := by decide
-- a byte channel carries the OP first (`20_memory.md` R55)
theorem test_requestBytes : requestBytes 0x000000005A010310 = [0x10, 0x03, 0x01, 0x5A, 0, 0, 0, 0] := by decide
theorem test_short_channel_refused : decodeBytes [0x01, 0, 0] = .error .notOneWord := by decide

/-! ## The assembler's checks: one ill-formed line for each (`30_encoding.md` R87) -/

theorem smoke_byte_not_integer : (Line.crcUpdate .nonInteger).wf = false := by decide
theorem smoke_command_not_integer : (Line.frameEncode .nonInteger (.int 0) []).wf = false := by decide
theorem smoke_subelement_not_integer : (Line.frameEncode (.int 0) .nonInteger []).wf = false := by decide
theorem smoke_parameter_not_integer : (Line.frameEncode (.int 0) (.int 0) [.nonInteger]).wf = false := by decide
theorem smoke_five_parameters :
    (Line.frameEncode (.int 0) (.int 0) [.int 0, .int 0, .int 0, .int 0, .int 0]).wf = false := by decide
theorem smoke_frame_index : (Line.frameRead (.int 16)).wf = false := by decide
theorem smoke_frame_index_negative : (Line.frameRead (.int (-1))).wf = false := by decide
theorem smoke_push_byte : (Line.snapPush .nonInteger (.int 1)).wf = false := by decide
theorem smoke_push_valid_bit : (Line.snapPush (.int 0) (.int 2)).wf = false := by decide
theorem smoke_push_short_form : (Line.snapPushValid .nonInteger).wf = false := by decide
theorem smoke_ds_index : (Line.dsRead (.int 16)).wf = false := by decide
theorem smoke_din_bit : (Line.dinTest (.int 8)).wf = false := by decide
theorem smoke_analog_channel : (Line.analogRead (.int 2)).wf = false := by decide
theorem smoke_crc_block : (Line.crcBlock [.int 1, .nonInteger]).wf = false := by decide
theorem smoke_snap_load : (Line.snapLoad [.nonInteger]).wf = false := by decide

-- V4: p1 = 300 wraps to 0x2C and p2 = -1 to 0xFF; R88: SNAP_BAD
theorem test_assemble_text :
    assembleText ["FRAME_ENCODE 5, 2, 300, -1 ; wraps", "", "SNAP_BAD", "DS_READ 0x0C"] =
      some [0x000000FF2C020510, 0x21, 0x0C30] := by decide
theorem test_assemble_rejects : assembleText ["DS_READ 16"] = none ∧ assembleText ["CRC_UPDATE 3.7"] = none ∧
    assembleText ["NOP"] = none := by decide

/-! ## One request at a time -/

-- V1: CRC of one byte and of two
theorem test_crc_vectors : crc16 [0x01] = 0x1021 ∧ crc16 [0x80] = 0x9188 ∧ crc16 [0xFF, 0xFF] = 0x1D0F ∧
    crc16 [0x12, 0x34] = 0x13C6 := by decide +kernel
-- V1: the check string "123456789"
theorem test_crc_check_string : crc16 [0x31, 0x32, 0x33, 0x34, 0x35, 0x36, 0x37, 0x38, 0x39] = 0x31C3 := by
  decide +kernel
-- by hand from R100: 0xF01F is x^15 + x^14 + x^13 + x^12 + x^4 + x^3 + x^2 + x + 1, a fixed point (log entry 16)
theorem test_crc_fixed_point : crcStep 0xF01F 0x00 = 0xF01F := by decide +kernel
-- V3: the table's last row
theorem test_crc_table_row : (List.range 16).map (fun k => crcTable (BitVec.ofNat 8 (0xF0 + k))) =
    [0xEF1F, 0xFF3E, 0xCF5D, 0xDF7C, 0xAF9B, 0xBFBA, 0x8FD9, 0x9FF8, 0x6E17, 0x7E36, 0x4E55, 0x5E74, 0x2E93, 0x3EB2,
      0x0ED1, 0x1EF0] := by decide +kernel

-- R102's example
theorem test_crcInit : after State.crc (exec .crcInit { tv with crc := 0x31C3 }) = some 0x0000 := by decide
-- T1 row 3: the response and crc carry the same value
theorem test_crcUpdate : answer (exec (.crcUpdate 0x32) { tv with crc := 0x2672 }) = some ⟨none, 0x20B5⟩ ∧
    after State.crc (exec (.crcUpdate 0x32) { tv with crc := 0x2672 }) = some 0x20B5 := by decide +kernel
theorem test_crcRead : answer (exec .crcRead { tv with crc := 0x31C3 }) = some ⟨none, 0x31C3⟩ := by decide

-- R121's example, and the frame with END = 0xFF (V4): START is outside the CRC and END inside
theorem test_frameEncode : after State.fb (exec (.frameEncode 3 1 90 0 0 0) tv) = some (some exampleFrame) ∧
    answer (exec (.frameEncode 3 1 90 0 0 0) tv) = some ⟨none, 0xC4EE⟩ := by decide +kernel
theorem test_frameEncode_endByte : encodeFrame ⟨0xAA, 0xFF⟩ 3 1 90 0 0 0 =
    #v[0xAA, 0x03, 0x01, 0x5A, 0x00, 0x00, 0x00, 0xFF, 0xD0, 0x4E] := by decide +kernel
-- T2 rows 7 and 2: a byte, and the range check before the unwritten check
theorem test_frameRead : answer (exec (.frameRead 8) encoded) = some ⟨none, 0xC4⟩ := by decide
theorem test_frameRead_faults : answer (exec (.frameRead 10) tv) = some ⟨some .eRange, 0⟩ ∧
    after (fun t => (t.err, t.errop)) (exec (.frameRead 0) tv) = some (some .eUnwritten, 0x11) := by decide

-- R141: the payload in progress is dropped
theorem test_snapBegin : after (fun t => (t.scnt, t.spoison, t.dstat)) (exec .snapBegin
    { committed with scnt := 7, spoison := true }) = some (0, false, .committed) := by decide
-- T4 rows 20 and 28: the 14th push, and an invalid element
theorem test_snapPush_saturates : answer (exec (.snapPush 9 true) staged) = some ⟨none, 14⟩ ∧
    after State.sb (exec (.snapPush 9 true) staged) = some staged.sb := by decide
theorem test_snapPush_poisons : after (fun t => (t.scnt, t.spoison, t.sbByte 6)) (exec (.snapPush 0 false)
    { staged with scnt := 6 }) = some (7, true, some 0x00) := by decide
-- T3 row 16: a commit; T4 row 35: a poisoned payload
theorem test_snapEnd_commits : after State.ds (exec .snapEnd staged) = some committedFields ∧
    answer (exec .snapEnd staged) = some ⟨none, 1⟩ := by decide
theorem test_snapEnd_rejects : after (fun t => (t.ds, t.dstat, t.spoison, t.err)) (exec .snapEnd
    { staged with spoison := true }) = some (tv.ds, .rejected, false, none) := by decide

-- T7 rows 6, 13, 1 and 14
theorem test_dsRead : answer (exec (.dsRead 5) committed) = some ⟨none, 90⟩ ∧
    answer (exec (.dsRead 11) committed) = some ⟨none, 255⟩ := by decide
theorem test_dsRead_faults : answer (exec (.dsRead 0) committed) = some ⟨some .eRange, 0⟩ ∧
    answer (exec (.dsRead 13) committed) = some ⟨some .eRange, 0⟩ := by decide
-- T7 rows 18 and 19
theorem test_dinTest : answer (exec (.dinTest 1) committed) = some ⟨none, 0⟩ ∧
    answer (exec (.dinTest 2) committed) = some ⟨none, 1⟩ := by decide
-- T7 rows 25 to 27
theorem test_distRead : answer (exec .distRead committed) = some ⟨none, 42⟩ := by decide
theorem test_analogRead : answer (exec (.analogRead 0) committed) = some ⟨none, 128⟩ ∧
    answer (exec (.analogRead 1) committed) = some ⟨none, 200⟩ := by decide
-- T2 row 14 and T6 row 14
theorem test_statusRead : answer (exec .statusRead { encoded with err := some .eUnwritten, errop := 0x11 }) =
    some ⟨none, 0x11420⟩ := by decide
theorem test_statusRead_count : answer (exec .statusRead { encoded with scnt := 9 }) = some ⟨none, 0x29⟩ := by decide

-- T8 row 2: a second fault answers its own code and leaves the first in err
theorem test_step_second_fault : answer (step (({ tv with err := some .eUnwritten, errop := 0x11 } : State).issue 0xFF)) =
    some ⟨some .eIllegalOp, 0⟩ ∧
    after (fun t => (t.err, t.errop)) (step (({ tv with err := some .eUnwritten, errop := 0x11 } : State).issue 0xFF)) =
      some (some .eUnwritten, 0x11) := by decide
-- T9: reset clears err and FB, and the instance keeps its parameters
theorem test_step_reset : step { encoded with err := some .eRange, errop := 0x11, pending := [.reset] } = .next tv := rfl
-- a word of the opcode table put at the port is what the next step runs (log entry 2)
theorem test_withFetchWord : step (State.reset.withFetchWord 64 0x3102) = exec (.crcUpdate 0x31) State.reset := rfl

/-! ## The hypotheses of the statements can be met -/

theorem forall_two {p : RequestWord → Prop} {a b : RequestWord} (ha : p a) (hb : p b) : ∀ w ∈ [a, b], p w := by
  simp [ha, hb]

theorem forall_three {p : RequestWord → Prop} {a b c : RequestWord} (ha : p a) (hb : p b) (hc : p c) :
    ∀ w ∈ [a, b, c], p w := by
  simp [ha, hb, hc]

theorem witness_reset_pending : ({ encoded with pending := [.reset] } : State).pending = .reset :: [] := rfl

theorem witness_decoded_request : ({ tv with pending := [.request 0x3102] } : State).pending = .request 0x3102 :: [] ∧
    decode 0x3102 = .ok (.crcUpdate 0x31) := ⟨rfl, rfl⟩

theorem witness_nothing_pending : State.reset.pending = [] := rfl

theorem witness_illegal_word : fieldOP 0xFF04 ∉ [0x01#8, 0x02#8, 0x03#8, 0x10#8, 0x11#8, 0x20#8, 0x21#8, 0x22#8, 0x30#8,
    0x31#8, 0x32#8, 0x33#8, 0x40#8] ∧ decode 0xFF04 = .error .eIllegalOp := by decide

theorem witness_reserved_bit : fieldOP 0x1C11 = opCode .frameRead ∧
    (0x1C11#64 &&& 0xFFFFFFFFFFFFFF00 &&& ~~~(usedMask .frameRead)) ≠ 0 := by decide

theorem witness_nonzero_Z : fieldOP 0x800000005A010310 = opCode .frameEncode ∧ fieldZ 0x800000005A010310 ≠ 0 := by decide

theorem witness_decoder_cases : opOfCode (fieldOP 0x04) = none ∧ opOfCode (fieldOP 0x0F11) = some .frameRead ∧
    (0x1011#64 &&& 0xFFFFFFFFFFFFFF00 &&& ~~~(usedMask .frameRead)) ≠ 0 ∧
    (0x0F11#64 &&& 0xFFFFFFFFFFFFFF00 &&& ~~~(usedMask .frameRead)) = 0 := by decide

theorem witness_channel_index : 7 < 8 ∧ 3 < 4 := by decide

/-- For a request with no operands: its word, and the word with its lowest reserved bit set. -/
theorem witness_words_without_operands : ∀ op ∈ [Op.crcInit, .crcRead, .snapBegin, .snapEnd, .distRead, .statusRead],
    let w : RequestWord := (opCode op).setWidth 64
    fieldOP w = opCode op ∧ w.extractLsb' 8 56 = 0 ∧
      fieldOP (w ||| 0x100) = opCode op ∧ (w ||| 0x100).extractLsb' 8 56 ≠ 0 := by decide

theorem witness_words_crcUpdate : fieldOP 0xFF02 = 0x02 ∧ (0xFF02#64).extractLsb' 16 48 = 0 ∧
    fieldOP 0x13102 = 0x02 ∧ (0x13102#64).extractLsb' 16 48 ≠ 0 := by decide

theorem witness_words_frameEncode : fieldOP 0x00FFFFFFFFFFFF10 = 0x10 ∧
    (0x00FFFFFFFFFFFF10#64).extractLsb' 56 8 = 0 ∧ fieldOP 0x0100000000000010 = 0x10 ∧
    (0x0100000000000010#64).extractLsb' 56 8 ≠ 0 := by decide

theorem witness_words_indexed : fieldOP 0x0F11 = 0x11 ∧ (0x0F11#64).extractLsb' 12 52 = 0 ∧
    fieldOP 0x1011 = 0x11 ∧ (0x1011#64).extractLsb' 12 52 ≠ 0 ∧
    fieldOP 0x0F30 = 0x30 ∧ (0x0F30#64).extractLsb' 12 52 = 0 ∧
    fieldOP 0x1030 = 0x30 ∧ (0x1030#64).extractLsb' 12 52 ≠ 0 := by decide

theorem witness_words_snapPush : fieldOP 0x1FF21 = 0x21 ∧ (0x1FF21#64).extractLsb' 17 47 = 0 ∧
    fieldOP 0x30721 = 0x21 ∧ (0x30721#64).extractLsb' 17 47 ≠ 0 := by decide

theorem witness_words_bits_and_channels : fieldOP 0x0731 = 0x31 ∧ (0x0731#64).extractLsb' 11 53 = 0 ∧
    fieldOP 0x0831 = 0x31 ∧ (0x0831#64).extractLsb' 11 53 ≠ 0 ∧
    fieldOP 0x0133 = 0x33 ∧ (0x0133#64).extractLsb' 9 55 = 0 ∧
    fieldOP 0x0233 = 0x33 ∧ (0x0233#64).extractLsb' 9 55 ≠ 0 := by decide

theorem witness_equal_lengths : ([0x03, 0x01] : List Byte).length = ([0x10, 0x00] : List Byte).length := rfl

/-- A CRC stream with a STATUS_READ and a faulting word between its requests. -/
theorem witness_crc_interleaving :
    (∀ w ∈ [0x40#64, 0x00#64], isOfUnit .crcUnit w = false) ∧
    Interleaving (encode .crcInit :: [0x31#8].map fun b => encode (.crcUpdate b)) [0x40, 0x00]
      [0x01, 0x40, 0x3102, 0x00] :=
  ⟨forall_two rfl rfl, .left _ (.right _ (.left _ (.right _ .done)))⟩

theorem witness_frame_operands : crc16 [3, 1, 90, 0, 0, 0, tv.inst.endByte] = 0xC4EE := by decide +kernel

theorem witness_same_instance : tv.inst = ({ committed with crc := 0x31C3 } : State).inst := rfl

theorem witness_frameRead_ok : (9#4).toNat ≤ 9 ∧ encoded.fvalid = true ∧ encoded.fbByte (9#4).toNat = some 0xEE := by decide
theorem witness_frameRead_range : 9 < (10#4).toNat := by decide
theorem witness_frameRead_unwritten : (9#4).toNat ≤ 9 ∧ tv.fvalid = false := by decide

theorem witness_frame_stays : (∀ w ∈ [0x40#64, 0x0911#64, 0x00#64], isOp .frameEncode w = false) ∧
    (encodeFrame tv.inst 3 1 90 0 0 0)[(9#4).toNat]? = some 0xEE :=
  ⟨forall_three rfl rfl rfl, by decide +kernel⟩

theorem witness_frame_no_value : (9#4).toNat ≤ 9 ∧ ({ tv with fvalid := true } : State).fbByte (9#4).toNat = none := by decide
theorem witness_staging_no_value : ({ tv with scnt := 13 } : State).scnt.val = 13 ∧
    ({ tv with scnt := 13 } : State).spoison = false ∧ ({ tv with scnt := 13 } : State).sbByte 12 = none := by decide

theorem witness_commit : staged.scnt.val = 13 ∧ staged.spoison = false ∧
    ∀ i : Fin 12, staged.sbByte (i.val + 1) = some committedFields[i.val] := by decide
theorem witness_reject_short : ¬(({ staged with scnt := 12 } : State).scnt.val = 13 ∧ staged.spoison = false) := by decide
theorem witness_reject_long : ¬(({ staged with scnt := 14 } : State).scnt.val = 13 ∧ staged.spoison = false) := by decide
theorem witness_reject_poisoned : ¬(staged.scnt.val = 13 ∧ ({ staged with spoison := true } : State).spoison = false) := by
  decide

theorem witness_inv_staged : staged.Inv := by decide
theorem witness_inv_encoded : encoded.Inv := by decide +kernel

theorem witness_payload_commits :
    (decodePayload (List.replicate 13 ⟨0xEE, true⟩) tv.ds).2 = true ∧
    (decodePayload (List.replicate 12 ⟨0xEE, true⟩) tv.ds).2 = false ∧
    (decodePayload (List.replicate 14 ⟨0xEE, true⟩) tv.ds).2 = false ∧
    (decodePayload (⟨0, false⟩ :: List.replicate 12 ⟨0xEE, true⟩) tv.ds).2 = false := by decide

theorem witness_snapshot_interleaving :
    (∀ w ∈ [0x20#64, 0x10021#64], isOfUnit .snapshotInput w = true) ∧
    (∀ w ∈ [0x530#64, 0x00#64], isOfUnit .snapshotInput w = false) ∧
    Interleaving [0x20, 0x10021] [0x530, 0x00] [0x20, 0x530, 0x10021, 0x00] :=
  ⟨forall_two rfl rfl, forall_two rfl rfl, .left _ (.right _ (.left _ (.right _ .done)))⟩

theorem witness_ds_entries : committed.dsByte (12#4).toNat = some 0x00 ∧ committed.dsByte (1#4).toNat = some 0x05 ∧
    1 ≤ (1#4).toNat ∧ (12#4).toNat ≤ 12 := by decide
theorem witness_ds_no_entry : (0#4).toNat = 0 ∧ 12 < (13#4).toNat := by decide
theorem witness_named_entries : committed.dsByte 1 = some 0x05 ∧ committed.dsByte 2 = some 0x2A ∧
    committed.dsByte 3 = some 0x80 ∧ committed.dsByte 4 = some 0xC8 := by decide

theorem witness_before_first_snapshot : encoded.Inv ∧ encoded.dstat = .noneYet ∧ 1 ≤ (1#4).toNat ∧ (12#4).toNat ≤ 12 := by
  decide +kernel

theorem witness_step_from_inv : staged.Inv ∧ ∃ t, step (staged.issue 0x22) = .next t := ⟨by decide, _, rfl⟩

/-- A faulting request: its step, and its response. -/
theorem witness_fault : ∃ t, step (tv.issue 0x0A11) = .next t ∧ t.responses = tv.responses ++ [⟨some .eRange, 0⟩] :=
  ⟨_, rfl, rfl⟩

theorem witness_err_held : ({ tv with err := some .eRange, errop := 0x30 } : State).err ≠ none ∧ tv.err = none := by decide

/-- One word for each clause of the fault priority: illegal; reserved; out of range; unwritten; none of them. -/
theorem witness_fault_priority : tv.Inv ∧ (∀ op, fieldOP 0xFF04 ≠ opCode op) ∧
    (fieldOP 0x1C11 = opCode .frameRead ∧ (0x1C11#64 &&& 0xFFFFFFFFFFFFFF00 &&& ~~~(usedMask .frameRead)) ≠ 0) ∧
    (fieldOP 0x0A11 = 0x11 ∧ decode 0x0A11 = .ok (.frameRead 10)) ∧
    (fieldOP 0x0911 = 0x11 ∧ decode 0x0911 = .ok (.frameRead 9) ∧ tv.fvalid = false) ∧
    (fieldOP 0x0C30 = 0x30 ∧ decode 0x0C30 = .ok (.dsRead 12)) :=
  ⟨by decide, fun op => by cases op <;> decide, by decide, by decide, by decide, by decide⟩

theorem witness_ds_written : ∃ t, step (staged.issue 0x22) = .next t ∧ t.ds ≠ staged.ds := ⟨_, rfl, by decide⟩

theorem witness_idempotent : isOp .crcUpdate 0x0A11 = false ∧ isOp .snapPush 0x0A11 = false ∧
    isOp .snapEnd 0x0A11 = false ∧ ∃ t, step (tv.issue 0x0A11) = .next t :=
  ⟨by decide, by decide, by decide, _, rfl⟩

theorem witness_nonInteger : Arg.nonInteger ∈ Arg.int 3 :: .int 1 :: [.nonInteger] := by decide
theorem witness_index_fits : 15 < 16 := by decide
theorem witness_element_range : (0 : Int) ≤ 255 ∧ (255 : Int) ≤ 255 := by decide

end Sys2Proof.Tests
end

/-! SUPPORT. The host's conversion of arguments to bytes, and the statements of `00_scope.md` (O52, O4, O28). -/

namespace Sys2Proof.Machine

/-! ## Arguments to bytes (`00_scope.md` R15, `30_encoding.md` R76) -/

theorem wrap8_toNat (v : Int) : (wrap8 v).toNat = (v % 256).toNat := by
  unfold wrap8
  rw [BitVec.toNat_ofNat, Nat.mod_eq_of_lt (by omega)]

theorem wrap8_eq_ofInt (v : Int) : wrap8 v = BitVec.ofInt 8 v :=
  BitVec.eq_of_toNat_eq (by rw [wrap8_toNat, BitVec.toNat_ofInt]; rfl)

@[simp] theorem argByte_int (v : Int) : argByte (.int v) = some (wrap8 v) := rfl
@[simp] theorem argByte_nonInteger : argByte .nonInteger = none := rfl

/-- One argument that is no integer refuses the whole list. -/
theorem mapM_argByte_eq_none {args : List Arg} (h : .nonInteger ∈ args) : args.mapM argByte = none := by
  induction args with
  | nil => cases h
  | cons a rest ih =>
    rw [List.mapM_cons]
    cases h with
    | head => rfl
    | tail _ hrest => cases a <;> simp [ih hrest]

/-- FRAME_ENCODE is refused where COMMAND, SUBELEMENT or the parameters as a whole have no bytes. -/
theorem assemble_frameEncode_eq_none {cmd sub : Arg} {params : List Arg}
    (h : argByte cmd = none ∨ argByte sub = none ∨ params.mapM argByte = none) :
    assemble (.frameEncode cmd sub params) = none := by
  unfold assemble
  obtain h | h | h := h
  · simp [h]
  · cases argByte cmd <;> simp [h]
  · cases argByte cmd <;> cases argByte sub <;> simp [h]

theorem assemble_frameEncode_int (cmd sub p1 p2 p3 p4 : Int) :
    assemble (.frameEncode (.int cmd) (.int sub) [.int p1, .int p2, .int p3, .int p4]) =
      some [.frameEncode (wrap8 cmd) (wrap8 sub) (wrap8 p1) (wrap8 p2) (wrap8 p3) (wrap8 p4)] := rfl

theorem assemble_frameEncode_nonInteger {cmd sub : Arg} {params : List Arg}
    (h : .nonInteger ∈ cmd :: sub :: params) : assemble (.frameEncode cmd sub params) = none := by
  apply assemble_frameEncode_eq_none
  rw [List.mem_cons, List.mem_cons] at h
  obtain rfl | rfl | hparams := h
  · exact .inl argByte_nonInteger
  · exact .inr (.inl argByte_nonInteger)
  · exact .inr (.inr (mapM_argByte_eq_none hparams))

/-- Settles O52: `wrap8` is the remainder modulo 256, and `argByte` refuses what is no integer. -/
theorem wrapIsModulo256 : Obligations.WrapIsModulo256 := by
  refine ⟨fun v => ⟨?_, wrap8_eq_ofInt v⟩, assemble_frameEncode_int, fun _ _ _ => assemble_frameEncode_nonInteger⟩
  rw [wrap8_toNat, Int.toNat_of_nonneg (Int.emod_nonneg v (by decide))]

/-! ## A step on a request -/

/-- Settles O4: a step takes the word off the port and serves it, and serving a word that decodes runs its request. -/
theorem stepRunsTheDecodedRequest : Obligations.StepRunsTheDecodedRequest := by
  intro s w rest i hpending hdecode
  calc step s = serve w { s with pending := rest } := step_request hpending
    _ = exec i { s with pending := rest } := serve_ok hdecode _

/-! ## Storage with no value (`00_scope.md` R14) -/

theorem execFrameRead_of_fbByte_none {s : State} {i : BitVec 4} (hi : i.toNat ≤ 9) (hb : s.fbByte i.toNat = none) :
    execFrameRead i s = .next (s.faulted .eUnwritten 0x11) := by
  obtain ⟨b, -, -, hsome, -⟩ | ⟨hrange, -⟩ | ⟨-, -, h⟩ := execFrameRead_cases i s
  · rw [hb] at hsome; cases hsome
  · omega
  · exact h

theorem execSnapEnd_of_sbByte_none {s : State} (hs : s.accepts = true) {i : Fin 12} (hb : s.sbByte (i.val + 1) = none) :
    execSnapEnd s = .next (s.faulted .eUnwritten 0x22) := by
  have hnone : stagedFields s.sb = none :=
    (stagedFields_eq_none_iff s.sb).2 ⟨i, by rw [← sbByte_eq s (by omega), hb]⟩
  obtain ⟨fields, -, hsome, -⟩ | ⟨-, -, h⟩ | ⟨hrejects, -⟩ := execSnapEnd_cases s
  · rw [hnone] at hsome; cases hsome
  · exact h
  · rw [hs] at hrejects; cases hrejects

/-- Settles O28: a byte of FB or an entry of SB[1..12] without a value leaves E_UNWRITTEN as the only answer. -/
theorem readingNoValueFaults : Obligations.ReadingNoValueFaults :=
  ⟨fun _ _ hi hb => execFrameRead_of_fbByte_none hi hb,
    fun s _ hcount hclean hb => execSnapEnd_of_sbByte_none ((accepts_iff s).2 ⟨hcount, hclean⟩) hb⟩

end Sys2Proof.Machine

/-! SUPPORT. What serving a request can do, said once, and the statements of `10_state.md` (O43, O48, O50). -/

namespace Sys2Proof.Machine

/-! ## What a request that responds OK writes -/

/-- `Writes s i t`: a request `i` that responds OK in `s` leaves `t`, up to the response (`20_memory.md` R60). -/
inductive Writes (s : State) : Instr → State → Prop
  | crcInit : Writes s .crcInit (s.setCrc crcInitial)
  | crcUpdate (a : Byte) : Writes s (.crcUpdate a) (s.setCrc (crcStep s.crc a))
  | frame (cmd sub p1 p2 p3 p4 : Byte) :
      Writes s (.frameEncode cmd sub p1 p2 p3 p4) (s.setFrame (encodeFrame s.inst cmd sub p1 p2 p3 p4))
  | clear : Writes s .snapBegin s.clearStaging
  | stage (a : Byte) (v : Bool) : Writes s (.snapPush a v) (s.stage a v)
  | commit {fields : Vector Byte 12} (accepts : s.accepts = true) (staged : stagedFields s.sb = some fields) :
      Writes s .snapEnd (s.commit fields).clearStaging
  | reject (rejects : s.accepts = false) : Writes s .snapEnd s.reject.clearStaging
  | read {i : Instr} (reads : i.op ∈ [.crcRead, .frameRead, .dsRead, .dinTest, .distRead, .analogRead, .statusRead]) :
      Writes s i s

/-- `Raises s i c`: the request `i` faults with code `c` in `s` (`60_exceptions.md` R173, R174, `00_scope.md` R14). -/
inductive Raises (s : State) : Instr → FaultCode → Prop
  | frameRange {k : BitVec 4} (index : 9 < k.toNat) : Raises s (.frameRead k) .eRange
  | frameUnwritten {k : BitVec 4} (index : k.toNat ≤ 9) (unwritten : s.fvalid = false ∨ s.fbByte k.toNat = none) :
      Raises s (.frameRead k) .eUnwritten
  | dsRange {k : BitVec 4} (index : k.toNat = 0 ∨ 12 < k.toNat) : Raises s (.dsRead k) .eRange
  | commitUnwritten (accepts : s.accepts = true) (unstaged : stagedFields s.sb = none) :
      Raises s .snapEnd .eUnwritten

/-- A request responds OK with its writes made, or faults. -/
theorem exec_cases (i : Instr) (s : State) :
    (∃ t d, Writes s i t ∧ exec i s = .next (t.answered d)) ∨
    (∃ c, Raises s i c ∧ exec i s = .next (s.faulted c (opCode i.op))) := by
  cases i with
  | crcInit => exact .inl ⟨_, _, .crcInit, rfl⟩
  | crcUpdate a => exact .inl ⟨_, _, .crcUpdate a, rfl⟩
  | frameEncode cmd sub p1 p2 p3 p4 => exact .inl ⟨_, _, .frame cmd sub p1 p2 p3 p4, rfl⟩
  | snapBegin => exact .inl ⟨_, _, .clear, rfl⟩
  | snapPush a v => exact .inl ⟨_, _, .stage a v, rfl⟩
  | crcRead | dinTest | distRead | analogRead | statusRead => exact .inl ⟨s, _, .read (by simp [Instr.op]), rfl⟩
  | frameRead k =>
    obtain ⟨b, -, -, -, h⟩ | ⟨hk, h⟩ | ⟨hk, hb, h⟩ := execFrameRead_cases k s
    · exact .inl ⟨s, _, .read (by simp [Instr.op]), h⟩
    · exact .inr ⟨_, .frameRange hk, h⟩
    · exact .inr ⟨_, .frameUnwritten hk hb, h⟩
  | dsRead k =>
    obtain ⟨b, -, -, -, h⟩ | ⟨hk, h⟩ := execDsRead_cases k s
    · exact .inl ⟨s, _, .read (by simp [Instr.op]), h⟩
    · exact .inr ⟨_, .dsRange hk, h⟩
  | snapEnd =>
    obtain ⟨fields, ha, hf, h⟩ | ⟨ha, hf, h⟩ | ⟨ha, h⟩ := execSnapEnd_cases s
    · exact .inl ⟨_, _, .commit ha hf, h⟩
    · exact .inr ⟨_, .commitUnwritten ha hf, h⟩
    · exact .inl ⟨_, _, .reject ha, h⟩

/-! ## What serving a word can do -/

theorem instrOfFields_op (op : Op) (w : RequestWord) : (instrOfFields op w).op = op := by cases op <;> rfl

/-- The decoder's request has the word's OP, and its faults are those of `60_exceptions.md` R171 and R172. -/
theorem decode_cases (w : RequestWord) :
    (∃ i, decode w = .ok i ∧ fieldOP w = opCode i.op) ∨
    (decode w = .error .eIllegalOp ∧ opOfCode (fieldOP w) = none) ∨
    (decode w = .error .eReserved ∧ ∃ op, fieldOP w = opCode op ∧ reservedBits op w ≠ 0) := by
  cases hcode : opOfCode (fieldOP w) with
  | none => exact .inr (.inl ⟨decode_illegal hcode, rfl⟩)
  | some op =>
    have hop := opOfCode_eq_some hcode
    by_cases hr : reservedBits op w = 0
    · exact .inl ⟨_, decode_dispatch hop hr, by rw [instrOfFields_op, hop]⟩
    · exact .inr (.inr ⟨decode_reserved hop hr, op, hop, hr⟩)

/-- `Faults s w c`: the word `w` faults with code `c` in `s`, in the decoder or as the request it spells. -/
inductive Faults (s : State) (w : RequestWord) : FaultCode → Prop
  | decoder {c : FaultCode} (error : decode w = .error c) : Faults s w c
  | request {i : Instr} {c : FaultCode} (ok : decode w = .ok i) (raises : Raises s i c) : Faults s w c

theorem fieldOP_of_decode {w : RequestWord} {i : Instr} (h : decode w = .ok i) : fieldOP w = opCode i.op := by
  obtain ⟨j, hj, hop⟩ | ⟨hj, -⟩ | ⟨hj, -⟩ := decode_cases w
  · rw [h] at hj; cases hj; exact hop
  · rw [h] at hj; cases hj
  · rw [h] at hj; cases hj

/-- A word is answered OK with its request's writes made, or with a fault that changes err and errop alone. -/
theorem serve_cases (w : RequestWord) (s : State) :
    (∃ i t d, decode w = .ok i ∧ Writes s i t ∧ serve w s = .next (t.answered d)) ∨
    (∃ c, Faults s w c ∧ serve w s = .next (s.faulted c (fieldOP w))) := by
  cases hw : decode w with
  | error c => exact .inr ⟨c, .decoder hw, serve_error hw s⟩
  | ok i =>
    obtain ⟨t, d, hwrites, h⟩ | ⟨c, hraises, h⟩ := exec_cases i s
    · exact .inl ⟨i, t, d, rfl, hwrites, (serve_ok hw s).trans h⟩
    · exact .inr ⟨c, .request hw hraises, by rw [serve_ok hw, h, fieldOP_of_decode hw]⟩

/-- `serve_cases` on the state that serving the word leaves. -/
theorem serve_next_cases {s t : State} {w : RequestWord} (h : serve w s = .next t) :
    (∃ i u d, decode w = .ok i ∧ Writes s i u ∧ t = u.answered d) ∨
    (∃ c, Faults s w c ∧ t = s.faulted c (fieldOP w)) := by
  obtain ⟨i, u, d, hdecode, hwrites, hu⟩ | ⟨c, hfaults, hu⟩ := serve_cases w s
  · exact .inl ⟨i, u, d, hdecode, hwrites, Host.Outcome.next.inj (h.symm.trans hu)⟩
  · exact .inr ⟨c, hfaults, Host.Outcome.next.inj (h.symm.trans hu)⟩

/-! ## What the writes leave unchanged -/

theorem answered_eq (d : Data) (s : State) : s.answered d = s.addResponse ⟨none, d⟩ := rfl

theorem faulted_eq (c : FaultCode) (op : Byte) (s : State) :
    s.faulted c op = (s.recordFault c op).addResponse ⟨some c, 0⟩ :=
  (Host.Outcome.next.inj (takeFault_eq c op s)).symm

/-- Only a fault writes err and errop (`10_state.md` R31, R32). -/
theorem Writes.err_errop_eq {s t : State} {i : Instr} (h : Writes s i t) : t.err = s.err ∧ t.errop = s.errop := by
  cases h <;> exact ⟨rfl, rfl⟩

theorem Writes.responses_eq {s t : State} {i : Instr} (h : Writes s i t) : t.responses = s.responses := by
  cases h <;> rfl

/-- Only a SNAP_END that accepts writes DS (`10_state.md` R30). -/
theorem Writes.ds_eq_or_commits {s t : State} {i : Instr} (h : Writes s i t) :
    t.ds = s.ds ∨ (i = .snapEnd ∧ s.accepts = true) := by
  cases h with
  | commit haccepts _ => exact .inr ⟨rfl, haccepts⟩
  | _ => exact .inl rfl

/-! ## The invariant -/

theorem frameOk_encodeFrame (inst : Config.Instance) (cmd sub p1 p2 p3 p4 : Byte) :
    frameOk inst (encodeFrame inst cmd sub p1 p2 p3 p4) = true := by
  simp [frameOk, encodeFrame]

/-- Staging an element keeps a byte in every counted position: the old ones, and the one it fills. -/
theorem stagedWith_isSome_of_lt_nextCount {sb : Vector (Option Byte) 13} {scnt : Fin 15} (a : Byte)
    (h : ∀ i : Fin 13, i.val < scnt.val → sb[i.val].isSome = true) (i : Fin 13) (hi : i.val < (nextCount scnt).val) :
    (stagedWith sb scnt a)[i.val].isSome = true := by
  rw [stagedWith_getElem sb scnt a i.isLt]
  split
  · rfl
  · rw [nextCount_val] at hi
    exact h i (by omega)

/-- In a state that meets the invariant no commit reads an unwritten entry of SB (`10_state.md` R35). -/
theorem State.Inv.stagedFields_ne_none {s : State} (hs : s.Inv) (ha : s.accepts = true) : stagedFields s.sb ≠ none := by
  obtain ⟨-, -, hstaged, -⟩ := hs
  intro hnone
  obtain ⟨i, hi⟩ := (stagedFields_eq_none_iff s.sb).1 hnone
  have hcount := ((accepts_iff s).1 ha).1
  have hsome : s.sb[i.val + 1].isSome = true := hstaged i.succ (by rw [hcount]; exact i.succ.isLt)
  rw [hi] at hsome
  cases hsome

/-- The writes of a request that responds OK keep the invariant. -/
theorem Writes.inv {s t : State} {i : Instr} (h : Writes s i t) (hs : s.Inv) : t.Inv := by
  obtain ⟨hvalid, hframe, hstaged, hpoison, hds, herr, hresponses⟩ := hs
  cases h with
  | read | crcInit | crcUpdate => exact ⟨hvalid, hframe, hstaged, hpoison, hds, herr, hresponses⟩
  | frame cmd sub p1 p2 p3 p4 =>
    exact ⟨rfl, frameOk_encodeFrame s.inst cmd sub p1 p2 p3 p4, hstaged, hpoison, hds, herr, hresponses⟩
  | clear => exact ⟨hvalid, hframe, by simp, by simp, hds, herr, hresponses⟩
  | stage a v =>
    exact ⟨hvalid, hframe, stagedWith_isSome_of_lt_nextCount a hstaged, fun _ => by simp [nextCount_val], hds, herr,
      hresponses⟩
  | commit | reject => exact ⟨hvalid, hframe, by simp, by simp, by simp, herr, hresponses⟩

theorem State.Inv.answered {s : State} (hs : s.Inv) (d : Data) : (s.answered d).Inv := by
  obtain ⟨hvalid, hframe, hstaged, hpoison, hds, herr, hresponses⟩ := hs
  exact ⟨hvalid, hframe, hstaged, hpoison, hds, herr, by simp [answered_eq, hresponses, Response.ok]⟩

/-- A fault keeps the invariant where its code fits its OP. -/
theorem State.Inv.faulted {s : State} (hs : s.Inv) {c : FaultCode} {op : Byte} (hc : errRecordOk (some c) op = true) :
    (s.faulted c op).Inv := by
  obtain ⟨hvalid, hframe, hstaged, hpoison, hds, herr, hresponses⟩ := hs
  have hrecord : errRecordOk (s.recordFault c op).err (s.recordFault c op).errop = true := by
    by_cases h : s.err = none <;> simp [h, hc, herr]
  exact ⟨hvalid, hframe, hstaged, hpoison, hds, by simpa [faulted_eq] using hrecord,
    by simp [faulted_eq, hresponses, Response.ok]⟩

/-- In a state that meets the invariant, a word's fault code fits its OP: a commit never faults. -/
theorem Faults.code_fits_op {s : State} {w : RequestWord} {c : FaultCode} (h : Faults s w c) (hs : s.Inv) :
    errRecordOk (some c) (fieldOP w) = true := by
  cases h with
  | decoder herror =>
    obtain ⟨i, hi, -⟩ | ⟨hc, hop⟩ | ⟨hc, op, hop, -⟩ := decode_cases w
    · rw [hi] at herror; cases herror
    · rw [hc] at herror; cases herror; simp [errRecordOk, hop]
    · rw [hc] at herror; cases herror; simp [errRecordOk, hop, opOfCode_opCode]
  | request hok hraises =>
    rw [fieldOP_of_decode hok]
    cases hraises with
    | frameRange | frameUnwritten | dsRange => rfl
    | commitUnwritten haccepts hnone => exact absurd hnone (hs.stagedFields_ne_none haccepts)

theorem State.Inv.serve {s t : State} {w : RequestWord} (hs : s.Inv) (h : serve w s = .next t) : t.Inv := by
  obtain ⟨i, u, d, -, hwrites, rfl⟩ | ⟨c, hfaults, rfl⟩ := serve_next_cases h
  · exact (hwrites.inv hs).answered d
  · exact hs.faulted (hfaults.code_fits_op hs)

theorem State.Inv.resetEvent {s : State} (hs : s.Inv) : s.resetEvent.Inv := by
  obtain ⟨-, -, -, -, -, -, hresponses⟩ := hs
  exact ⟨rfl, rfl, by simp, by simp, by simp, rfl, hresponses⟩

/-- Settles O43: a step waits, resets or serves a word, and each of the three keeps the invariant. -/
theorem everyStepKeepsTheInvariant : Obligations.EveryStepKeepsTheInvariant := by
  intro s t hs h
  cases hp : s.pending with
  | nil =>
    rw [step_nil hp] at h
    cases h
    exact hs
  | cons e rest =>
    -- the invariant does not read the events still pending
    have htaken : State.Inv { s with pending := rest } := hs
    cases e with
    | reset =>
      rw [step_reset hp] at h
      cases h
      exact htaken.resetEvent
    | request w =>
      rw [step_request hp] at h
      exact htaken.serve h

/-! ## The first fault -/

/-- Settles O48: a request answered OK leaves err and errop, and a fault records itself while err is 0. -/
theorem firstFaultIsSticky : Obligations.FirstFaultIsSticky := by
  refine ⟨fun s w => ?_, fun s rest hp => ⟨_, step_reset hp, rfl, rfl⟩⟩
  rw [step_issue]
  obtain ⟨i, t, d, -, hwrites, h⟩ | ⟨c, -, h⟩ := serve_cases w s
  · obtain ⟨herr, herrop⟩ := hwrites.err_errop_eq
    exact ⟨_, none, d, h, by simp [answered_eq, hwrites.responses_eq], fun _ => ⟨herr, herrop⟩,
      fun hnone => ⟨herr.trans hnone, herrop⟩⟩
  · refine ⟨_, some c, 0, h, by simp [faulted_eq], fun hheld => ?_, fun hnone => ?_⟩
    · simp [faulted_eq, hheld]
    · simp [faulted_eq, hnone]

/-! ## The writers of DS -/

/-- Serving a word changes DS only where the word is a SNAP_END that accepts. -/
theorem commits_of_serve_ds_ne {s t : State} {w : RequestWord} (h : serve w s = .next t) (hds : t.ds ≠ s.ds) :
    decode w = .ok .snapEnd ∧ s.accepts = true := by
  obtain ⟨i, u, d, hdecode, hwrites, rfl⟩ | ⟨c, -, rfl⟩ := serve_next_cases h
  · obtain hsame | ⟨rfl, haccepts⟩ := hwrites.ds_eq_or_commits
    · exact absurd hsame hds
    · exact ⟨hdecode, haccepts⟩
  · exact absurd rfl hds

/-- Settles O50: a waiting block keeps DS, and a word that changes it is a SNAP_END that accepts. -/
theorem onlyACommitOrResetWritesDeviceState : Obligations.OnlyACommitOrResetWritesDeviceState := by
  intro s t h hds
  cases hp : s.pending with
  | nil =>
    rw [step_nil hp] at h
    cases h
    exact absurd rfl hds
  | cons e rest =>
    cases e with
    | reset => exact .inl ⟨rest, rfl⟩
    | request w =>
      rw [step_request hp] at h
      obtain ⟨hdecode, haccepts⟩ := commits_of_serve_ds_ne h hds
      obtain ⟨hcount, hclean⟩ := (accepts_iff _).1 haccepts
      exact .inr ⟨w, rest, rfl, hdecode, hcount, hclean⟩

end Sys2Proof.Machine

/-! SUPPORT. The words of requests, runs of request streams, what the requests read and write, and the statements of
`20_memory.md` (O11, O27, O45, O51). -/

namespace Sys2Proof.Machine

/-! ## The byte channel (`20_memory.md` R55) -/

theorem channelBytes_length {n w : Nat} (v : BitVec w) : (channelBytes n v).length = n := by
  simp [channelBytes]

theorem channelBytes_getElem? {n w k : Nat} (v : BitVec w) (hk : k < n) :
    (channelBytes n v)[k]? = some (v.extractLsb' (8 * k) 8) := by
  simp [channelBytes, hk]

/-- A word is its first seven fields packed, and its Z byte above them. -/
theorem packRequest_or_fieldZ (w : RequestWord) :
    packRequest (fieldOP w) (fieldA w) (fieldB w) (fieldC w) (fieldD w) (fieldE w) (fieldF w) |||
      (fieldZ w).setWidth 64 <<< 56 = w := by
  apply BitVec.eq_of_getLsbD_eq
  intro i hi
  rw [BitVec.getLsbD_or, packRequest_getLsbD]
  simp only [fieldOP, fieldA, fieldB, fieldC, fieldD, fieldE, fieldF, fieldZ, BitVec.getLsbD_extractLsb',
    BitVec.getLsbD_shiftLeft, BitVec.getLsbD_setWidth]
  interval_cases i <;> simp

theorem requestOfBytes_requestBytes (w : RequestWord) : requestOfBytes (requestBytes w) = some w :=
  congrArg some (packRequest_or_fieldZ w)

/-- Settles O11: byte k of a channel is the value's k-th byte from below, and the eight bytes make up the word. -/
theorem byteChannelIsLittleEndian : Obligations.ByteChannelIsLittleEndian :=
  ⟨fun w => ⟨channelBytes_length w, channelBytes_getElem? w (by decide), fun _ => channelBytes_getElem? w,
      requestOfBytes_requestBytes w⟩,
    fun d => ⟨channelBytes_length d, fun _ => channelBytes_getElem? d⟩⟩

/-! ## The answers of the requests that can fault, one equation per case -/

theorem execFrameRead_of_fbByte_some {s : State} {k : BitVec 4} {b : Byte} (hk : k.toNat ≤ 9) (hvalid : s.fvalid = true)
    (hb : s.fbByte k.toNat = some b) : execFrameRead k s = .next (s.answered (zext32 b)) := by
  simp [execFrameRead, frameIndexOk, hk, hvalid, hb, respond_eq]

theorem execDsRead_of_dsByte_some {s : State} {k : BitVec 4} {b : Byte} (hb : s.dsByte k.toNat = some b) :
    execDsRead k s = .next (s.answered (zext32 b)) := by
  simp [execDsRead, hb, respond_eq]

theorem execSnapEnd_of_commits {s : State} {fields : Vector Byte 12} (haccepts : s.accepts = true)
    (hfields : stagedFields s.sb = some fields) :
    execSnapEnd s = .next ((s.commit fields).clearStaging.answered 1) := by
  simp [execSnapEnd, haccepts, hfields, respond_eq]

theorem execSnapEnd_of_rejects {s : State} (hrejects : s.accepts = false) :
    execSnapEnd s = .next (s.reject.clearStaging.answered 0) := by
  simp [execSnapEnd, hrejects, respond_eq]

/-- A request answers the fault that it raises. -/
theorem Raises.exec_eq {s : State} {i : Instr} {c : FaultCode} (h : Raises s i c) :
    exec i s = .next (s.faulted c (opCode i.op)) := by
  cases h with
  | @frameRange k index =>
    obtain ⟨_, hk, -⟩ | ⟨-, h⟩ | ⟨hk, -⟩ := execFrameRead_cases k s
    · omega
    · exact h
    · omega
  | @frameUnwritten k index unwritten =>
    obtain ⟨b, -, hvalid, hb, -⟩ | ⟨hk, -⟩ | ⟨-, -, h⟩ := execFrameRead_cases k s
    · simp [hvalid, hb] at unwritten
    · omega
    · exact h
  | @dsRange k index =>
    obtain ⟨_, _, _, -⟩ | ⟨-, h⟩ := execDsRead_cases k s
    · omega
    · exact h
  | commitUnwritten accepts unstaged =>
    simp [exec, execSnapEnd, accepts, unstaged, takeFault_eq, Instr.op]

/-- What a request raises does not depend on the error record and the responses. -/
theorem Raises.of_record {s : State} {i : Instr} {c : FaultCode} (h : Raises s i c) (err : Option FaultCode)
    (errop : Byte) (responses : List Response) :
    Raises { s with err := err, errop := errop, responses := responses } i c := by
  cases h with
  | frameRange index => exact .frameRange index
  | frameUnwritten index unwritten => exact .frameUnwritten index unwritten
  | dsRange index => exact .dsRange index
  | commitUnwritten accepts unstaged => exact .commitUnwritten accepts unstaged

theorem serve_of_faults {s : State} {w : RequestWord} {c : FaultCode} (h : Faults s w c) :
    serve w s = .next (s.faulted c (fieldOP w)) := by
  cases h with
  | decoder error => exact serve_error error s
  | request ok raises => rw [serve_ok ok, raises.exec_eq, fieldOP_of_decode ok]

/-- What a word raises does not depend on the error record and the responses. -/
theorem Faults.of_record {s : State} {w : RequestWord} {c : FaultCode} (h : Faults s w c) (err : Option FaultCode)
    (errop : Byte) (responses : List Response) :
    Faults { s with err := err, errop := errop, responses := responses } w c := by
  cases h with
  | decoder error => exact .decoder error
  | request ok raises => exact .request ok (raises.of_record err errop responses)

/-! ## Runs of request streams -/

/-- A request is answered the same whatever the host issues after it (`20_memory.md` R63). -/
theorem exec_issueAll {i : Instr} {s t : State} (h : exec i s = .next t) (ws : List RequestWord) :
    exec i (s.issueAll ws) = .next (t.issueAll ws) := by
  cases i with
  | frameRead k =>
    obtain ⟨b, hk, hvalid, hb, hs⟩ | ⟨hk, hs⟩ | ⟨hk, hb, hs⟩ := execFrameRead_cases k s <;> cases h.symm.trans hs
    · exact execFrameRead_of_fbByte_some (s := s.issueAll ws) hk hvalid hb
    · exact (Raises.frameRange hk).exec_eq
    · exact (Raises.frameUnwritten (s := s.issueAll ws) hk hb).exec_eq
  | dsRead k =>
    obtain ⟨b, -, -, hb, hs⟩ | ⟨hk, hs⟩ := execDsRead_cases k s <;> cases h.symm.trans hs
    · exact execDsRead_of_dsByte_some (s := s.issueAll ws) hb
    · exact (Raises.dsRange hk).exec_eq
  | snapEnd =>
    obtain ⟨fields, ha, hf, hs⟩ | ⟨ha, hf, hs⟩ | ⟨ha, hs⟩ := execSnapEnd_cases s <;> cases h.symm.trans hs
    · exact execSnapEnd_of_commits (s := s.issueAll ws) ha hf
    · exact (Raises.commitUnwritten (s := s.issueAll ws) ha hf).exec_eq
    · exact execSnapEnd_of_rejects (s := s.issueAll ws) ha
  | _ => cases h; rfl

theorem serve_issueAll {w : RequestWord} {s t : State} (h : serve w s = .next t) (ws : List RequestWord) :
    serve w (s.issueAll ws) = .next (t.issueAll ws) := by
  cases hw : decode w with
  | ok i =>
    rw [serve_ok hw] at h ⊢
    exact exec_issueAll h ws
  | error c =>
    rw [serve_error hw] at h ⊢
    cases h
    rfl

theorem serve_next (w : RequestWord) (s : State) : ∃ t, serve w s = .next t := by
  obtain ⟨_, t, d, -, -, h⟩ | ⟨c, -, h⟩ := serve_cases w s
  · exact ⟨_, h⟩
  · exact ⟨_, h⟩

theorem runAll_issueAll_nil (s : State) : runAll (s.issueAll []) = .next (s.issueAll []) := runAll_nil rfl

/-- The run of a stream is the run of its rest from the state its first word leaves. -/
theorem runAll_issueAll_cons {w : RequestWord} {s t : State} (h : serve w s = .next t) (ws : List RequestWord) :
    runAll (s.issueAll (w :: ws)) = runAll (t.issueAll ws) :=
  runAll_cons rfl ((step_request rfl).trans (serve_issueAll h ws)) rfl

/-- Settles O45: by induction on the first stream, whose every word leaves a state that does not depend on the rest. -/
theorem requestsTakeEffectInIssueOrder : Obligations.RequestsTakeEffectInIssueOrder := by
  intro s first later
  induction first generalizing s with
  | nil => exact ⟨_, runAll_issueAll_nil s, rfl⟩
  | cons w ws ih =>
    obtain ⟨t, h⟩ := serve_next w s
    rw [List.cons_append, runAll_issueAll_cons h, runAll_issueAll_cons h]
    exact ih t

/-! ## Reading a frame back (`20_memory.md` R53) -/

theorem decode_encode_of_wordShape {i : Instr} (h : Laws.WordShape.Statement i) :
    decode (encode i) = .ok (instrOfFields i.op (encode i)) := by
  obtain ⟨hop, -, hreserved⟩ := h
  exact decode_dispatch hop hreserved

theorem decode_encode_frameEncode (cmd sub p1 p2 p3 p4 : Byte) :
    decode (encode (.frameEncode cmd sub p1 p2 p3 p4)) = .ok (.frameEncode cmd sub p1 p2 p3 p4) := by
  rw [decode_encode_of_wordShape (Laws.WordShape.frameEncode cmd sub p1 p2 p3 p4)]
  simp [instrOfFields, Instr.op, encode]

theorem decode_encode_frameRead (k : BitVec 4) : decode (encode (.frameRead k)) = .ok (.frameRead k) := by
  rw [decode_encode_of_wordShape (Laws.WordShape.frameRead k)]
  simp [instrOfFields, Instr.op, encode, BitVec.extractLsb'_setWidth_of_le]

/-- FRAME_READs answer the bytes of the frame in FB at their indices, in their order. -/
theorem runAll_frameReads {f : Frame} (ks : List (Fin 10)) {s : State} (hvalid : s.fvalid = true)
    (hfb : s.fb = some f) :
    ∃ t, runAll (s.issueAll (ks.map fun k => encode (.frameRead (BitVec.ofNat 4 k)))) = .next t ∧
      t.responses = s.responses ++ ks.map fun k => ⟨none, zext32 f[k]⟩ := by
  induction ks generalizing s with
  | nil => exact ⟨_, runAll_issueAll_nil s, (List.append_nil _).symm⟩
  | cons k ks ih =>
    have hk : (BitVec.ofNat 4 k).toNat = k := Nat.mod_eq_of_lt (by omega)
    have hserve : serve (encode (.frameRead (BitVec.ofNat 4 k))) s = .next (s.answered (zext32 f[k])) := by
      rw [serve_ok (decode_encode_frameRead _)]
      refine execFrameRead_of_fbByte_some (by omega) hvalid ?_
      simp [State.fbByte, hfb, hk]
    obtain ⟨t, ht, hresponses⟩ := ih (s := s.answered (zext32 f[k])) hvalid hfb
    refine ⟨t, (runAll_issueAll_cons hserve _).trans ht, ?_⟩
    simpa [answered_eq] using hresponses

/-- Serving a FRAME_ENCODE writes the frame and answers its CRC (`41_frame.md` R121). -/
theorem serve_frameEncode (s : State) (cmd sub p1 p2 p3 p4 : Byte) :
    serve (encode (.frameEncode cmd sub p1 p2 p3 p4)) s =
      .next ((s.setFrame (encodeFrame s.inst cmd sub p1 p2 p3 p4)).answered
        (zext32 (crc16 [cmd, sub, p1, p2, p3, p4, s.inst.endByte]))) := by
  rw [serve_ok (decode_encode_frameEncode cmd sub p1 p2 p3 p4), ← crcHi_append_crcLo (crc16 _)]
  rfl

/-- Settles O27: FRAME_ENCODE leaves the frame in FB, and the ten reads answer its bytes from index 0 up. -/
theorem frameIsHandedOnInIndexOrder : Obligations.FrameIsHandedOnInIndexOrder := by
  intro s cmd sub p1 p2 p3 p4 c
  obtain ⟨t, ht, hresponses⟩ := runAll_frameReads (f := encodeFrame s.inst cmd sub p1 p2 p3 p4) (List.finRange 10)
    (s := (s.setFrame _).answered (zext32 c)) rfl rfl
  refine ⟨t, ?_, hresponses.trans (List.append_assoc ..)⟩
  rw [runAll_issueAll_cons (serve_frameEncode s cmd sub p1 p2 p3 p4), ← ht, ← List.map_coe_finRange_eq_range,
    List.map_map]
  rfl

/-! ## What each request changes (`20_memory.md` R60) -/

section writes
variable {s t : State} {i : Instr} (h : Writes s i t)
include h

theorem Writes.inst_eq : t.inst = s.inst := by cases h <;> rfl

theorem Writes.pending_eq : t.pending = s.pending := by cases h <;> rfl

theorem Writes.crc_eq (hinit : i.op ≠ .crcInit) (hupdate : i.op ≠ .crcUpdate) : t.crc = s.crc := by
  cases h with
  | crcInit => exact absurd rfl hinit
  | crcUpdate => exact absurd rfl hupdate
  | _ => rfl

theorem Writes.frame_eq (hop : i.op ≠ .frameEncode) : t.fb = s.fb ∧ t.fvalid = s.fvalid := by
  cases h with
  | frame => exact absurd rfl hop
  | _ => exact ⟨rfl, rfl⟩

theorem Writes.sb_eq (hop : i.op ≠ .snapPush) : t.sb = s.sb := by
  cases h with
  | stage => exact absurd rfl hop
  | _ => rfl

theorem Writes.staging_eq (hunit : unitOf i.op ≠ .snapshotInput) : t.scnt = s.scnt ∧ t.spoison = s.spoison := by
  cases h with
  | clear | stage | commit | reject => exact absurd rfl hunit
  | _ => exact ⟨rfl, rfl⟩

theorem Writes.deviceState_eq (hop : i.op ≠ .snapEnd) : t.ds = s.ds ∧ t.dstat = s.dstat := by
  cases h with
  | commit | reject => exact absurd rfl hop
  | _ => exact ⟨rfl, rfl⟩

end writes

theorem isOp_eq_false_iff {op : Op} {w : RequestWord} {i : Instr} (h : decode w = .ok i) :
    isOp op w = false ↔ i.op ≠ op := by
  simp [isOp, h]

theorem isOfUnit_eq_false_iff {u : BlockUnit} {w : RequestWord} {i : Instr} (h : decode w = .ok i) :
    isOfUnit u w = false ↔ unitOf i.op ≠ u := by
  simp [isOfUnit, h]

/-! ## Repeating a request -/

/-- A fault that is not the first changes nothing but the responses. -/
theorem faulted_of_err_ne_none {s : State} (h : s.err ≠ none) (c : FaultCode) (op : Byte) :
    s.faulted c op = { s with responses := s.responses ++ [⟨some c, 0⟩] } := by
  simp [State.faulted, h]

theorem faulted_err_ne_none (c : FaultCode) (op : Byte) (s : State) : (s.faulted c op).err ≠ none := by
  rw [faulted_eq]
  by_cases h : s.err = none <;> simp [h]

theorem answered_ne_faulted (d : Data) (c : FaultCode) (op : Byte) (s : State) : s.answered d ≠ s.faulted c op := by
  intro h
  simpa [answered_eq, faulted_eq] using congrArg State.responses h

/-- A request that is no CRC_UPDATE, SNAP_PUSH or SNAP_END has nothing left to write once it has responded OK. -/
theorem Writes.eq_of_again {s t u : State} {i : Instr} {d : Data} (h : Writes s i t)
    (hagain : Writes (t.answered d) i u) (hupdate : i.op ≠ .crcUpdate) (hpush : i.op ≠ .snapPush)
    (hend : i.op ≠ .snapEnd) : u = t.answered d := by
  cases h with
  | crcInit | frame | clear => cases hagain <;> rfl
  | crcUpdate => exact absurd rfl hupdate
  | stage => exact absurd rfl hpush
  | commit | reject => exact absurd rfl hend
  | read reads =>
    cases hagain with
    | read => rfl
    | _ => simp [Instr.op] at reads

/-- A request that is no SNAP_END and has responded OK raises no fault when it is repeated. -/
theorem Writes.not_raises_again {s t : State} {i : Instr} {d : Data} (h : Writes s i t)
    (hok : exec i s = .next (t.answered d)) (hend : i.op ≠ .snapEnd) (c : FaultCode) : ¬Raises (t.answered d) i c := by
  intro hraises
  cases h with
  | crcInit | crcUpdate | frame | clear | stage => cases hraises
  | commit | reject => exact absurd rfl hend
  | read =>
    have hfaulted := Raises.exec_eq (hraises.of_record s.err s.errop s.responses : Raises s i c)
    exact answered_ne_faulted _ _ _ _ (Host.Outcome.next.inj (hok.symm.trans hfaulted))

/-- Serving a word of an idempotent request again changes nothing but the responses. -/
theorem serve_again {s t : State} {w : RequestWord} (h : serve w s = .next t) (hupdate : isOp .crcUpdate w = false)
    (hpush : isOp .snapPush w = false) (hend : isOp .snapEnd w = false) :
    ∃ responses, serve w t = .next { t with responses := responses } := by
  obtain ⟨i, u, d, hdecode, hwrites, rfl⟩ | ⟨c, hfaults, rfl⟩ := serve_next_cases h
  · rw [isOp_eq_false_iff hdecode] at hupdate hpush hend
    rw [serve_ok hdecode] at h ⊢
    obtain ⟨v, d', hagain, hv⟩ | ⟨c, hraises, -⟩ := exec_cases i (u.answered d)
    · cases hwrites.eq_of_again hagain hupdate hpush hend
      exact ⟨_, hv⟩
    · exact absurd hraises (hwrites.not_raises_again h hend c)
  · have hfaultsAgain : Faults (s.faulted c (fieldOP w)) w c := hfaults.of_record _ _ _
    exact ⟨_, by rw [serve_of_faults hfaultsAgain, faulted_of_err_ne_none (faulted_err_ne_none c (fieldOP w) s)]⟩

/-- Under the invariant a SNAP_END clears the count, so a second one rejects. -/
theorem execSnapEnd_twice {s : State} (hs : s.Inv) :
    ∃ t, execSnapEnd s = .next t ∧ t.scnt = 0 ∧ execSnapEnd t = .next (t.reject.clearStaging.answered 0) := by
  obtain ⟨fields, -, -, h⟩ | ⟨haccepts, hnone, -⟩ | ⟨-, h⟩ := execSnapEnd_cases s
  · exact ⟨_, h, rfl, execSnapEnd_of_rejects rfl⟩
  · exact absurd hnone (hs.stagedFields_ne_none haccepts)
  · exact ⟨_, h, rfl, execSnapEnd_of_rejects rfl⟩

/-- Settles O51: a word that responds OK makes its request's writes and no others, and a word that faults writes err and
errop alone. -/
theorem sideEffectsAndIdempotency : Obligations.SideEffectsAndIdempotency := by
  refine ⟨fun s w => ?_, fun s t w hupdate hpush hend h => ?_, ⟨State.reset, _, _, rfl, rfl, by decide +kernel⟩,
    ⟨State.reset, _, _, rfl, rfl, by decide⟩, fun s hs => ?_⟩
  · rw [step_issue]
    obtain ⟨i, u, d, hdecode, hwrites, h⟩ | ⟨c, -, h⟩ := serve_cases w s
    · simp only [isOp_eq_false_iff hdecode, isOfUnit_eq_false_iff hdecode]
      exact ⟨_, none, d, h, by rw [← hwrites.responses_eq]; rfl, hwrites.inst_eq, hwrites.pending_eq, hwrites.crc_eq,
        hwrites.frame_eq, hwrites.sb_eq, hwrites.staging_eq, hwrites.deviceState_eq, fun _ => hwrites.err_errop_eq,
        nofun⟩
    · exact ⟨_, some c, 0, h, rfl, rfl, rfl, fun _ _ => rfl, fun _ => ⟨rfl, rfl⟩, fun _ => rfl, fun _ => ⟨rfl, rfl⟩,
        fun _ => ⟨rfl, rfl⟩, nofun, fun _ hc => by cases hc; rfl⟩
  · rw [step_issue] at h ⊢
    obtain ⟨responses, h⟩ := serve_again h hupdate hpush hend
    exact ⟨_, h, rfl⟩
  · obtain ⟨t, h, hcount, hagain⟩ := execSnapEnd_twice hs
    exact ⟨t, _, h, congrArg Fin.val hcount, hagain, rfl, rfl⟩

end Sys2Proof.Machine

/-! SUPPORT. Encode and decode undo each other, the assembler on arguments and lines, and the statements of
`30_encoding.md` (O9, O8, O10, O44, O53, O3, O54, O55). -/

namespace Sys2Proof.Machine

/-! ## From a request to its word and back (`30_encoding.md` R70, R73, R74) -/

/-- Every request's word has the shape of `Laws.WordShape`. -/
theorem wordShape (i : Instr) : Laws.WordShape.Statement i := by
  cases i with
  | crcInit => exact Laws.WordShape.crcInit
  | crcUpdate a => exact Laws.WordShape.crcUpdate a
  | crcRead => exact Laws.WordShape.crcRead
  | frameEncode cmd sub p1 p2 p3 p4 => exact Laws.WordShape.frameEncode cmd sub p1 p2 p3 p4
  | frameRead k => exact Laws.WordShape.frameRead k
  | snapBegin => exact Laws.WordShape.snapBegin
  | snapPush a v => exact Laws.WordShape.snapPush a v
  | snapEnd => exact Laws.WordShape.snapEnd
  | dsRead k => exact Laws.WordShape.dsRead k
  | dinTest k => exact Laws.WordShape.dinTest k
  | distRead => exact Laws.WordShape.distRead
  | analogRead ch => exact Laws.WordShape.analogRead ch
  | statusRead => exact Laws.WordShape.statusRead

/-- The operand fields of a request's word give the request's operands back. -/
theorem instrOfFields_encode (i : Instr) : instrOfFields i.op (encode i) = i := by
  cases i with
  | crcInit | crcRead | snapBegin | snapEnd | distRead | statusRead => rfl
  | crcUpdate | frameEncode => simp [instrOfFields, Instr.op, encode]
  | snapPush a v => cases v <;> simp [instrOfFields, Instr.op, encode]
  | frameRead | dsRead | dinTest | analogRead =>
    simp [instrOfFields, Instr.op, encode, BitVec.extractLsb'_setWidth_of_le]

/-- Settles O9: a request's word has the request's OP and no reserved bit set, and its fields hold the operands. -/
theorem decodeOfEncodeIsIdentity : Obligations.DecodeOfEncodeIsIdentity := by
  intro i
  calc decode (encode i) = .ok (instrOfFields i.op (encode i)) := decode_encode_of_wordShape (wordShape i)
    _ = .ok i := by rw [instrOfFields_encode]

theorem decode_of_encode_eq {w : RequestWord} {i : Instr} (h : encode i = w) : decode w = .ok i :=
  h ▸ decodeOfEncodeIsIdentity i

/-- Settles O3: each word is the word of its request. -/
theorem writtenWordsDecode : Obligations.WrittenWordsDecode :=
  ⟨decode_of_encode_eq rfl, decode_of_encode_eq rfl, decode_of_encode_eq rfl, decode_of_encode_eq rfl,
    decode_of_encode_eq rfl, decode_of_encode_eq rfl, decode_of_encode_eq rfl⟩

/-! ## The decoder's procedure (`30_encoding.md` R89) -/

/-- An index operand, the low bits of A, is the word's bits from bit 8 up. -/
theorem extractLsb'_fieldA (w : RequestWord) {n : Nat} (hn : n ≤ 8) :
    (fieldA w).extractLsb' 0 n = w.extractLsb' 8 n := by
  apply BitVec.eq_of_getLsbD_eq
  intro j hj
  simp [fieldA, hj, show j < 8 by omega]

/-- V, the lowest bit of B, is bit 16 of the word. -/
theorem getLsbD_fieldB_zero (w : RequestWord) : (fieldB w).getLsbD 0 = w.getLsbD 16 := by
  simp [fieldB]

/-- Settles O8: the three cases of the decoder, with the operands of `instrOfFields` read as bits of the word. -/
theorem decoderFollowsTheProcedure : Obligations.DecoderFollowsTheProcedure := by
  refine fun w => ⟨decode_illegal, fun op hcode => ?_⟩
  have hop := opOfCode_eq_some hcode
  refine ⟨hop, decode_reserved hop, fun hclear => (decode_dispatch hop hclear).trans (congrArg Except.ok ?_)⟩
  cases op with
  | frameRead => exact congrArg Instr.frameRead (extractLsb'_fieldA w (by decide))
  | dsRead => exact congrArg Instr.dsRead (extractLsb'_fieldA w (by decide))
  | dinTest => exact congrArg Instr.dinTest (extractLsb'_fieldA w (by decide))
  | analogRead => exact congrArg Instr.analogRead (extractLsb'_fieldA w (by decide))
  | snapPush => exact congrArg (Instr.snapPush (fieldA w)) (getLsbD_fieldB_zero w)
  | _ => rfl

/-! ## From a word to its request and back -/

theorem ofBool_getLsbD_zero {w : Nat} (x : BitVec w) : BitVec.ofBool (x.getLsbD 0) = x.extractLsb' 0 1 := by
  apply BitVec.eq_of_getLsbD_eq
  intro j hj
  simp [show j = 0 by omega]

section clear
variable {op : Op} {w : RequestWord} (hclear : reservedBits op w = 0)
include hclear

/-- A byte of a word whose bits from the `n`-th up are reserved is its low `n` bits, widened. -/
theorem setWidth_extractLsb'_of_reservedBits (lo n : Nat) (hlo : reservedFrom op ≤ lo + n) :
    ((w.extractLsb' lo 8).extractLsb' 0 n).setWidth 8 = w.extractLsb' lo 8 := by
  apply BitVec.eq_of_getLsbD_eq
  intro j hj
  by_cases hn : j < n
  · simp [hj, hn]
  · simp [hn, getLsbD_of_reservedBits_eq_zero hclear (show reservedFrom op ≤ lo + j by omega)]

/-- A byte of a word that is reserved as a whole is 0. -/
theorem extractLsb'_eq_zero_of_reservedBits (lo : Nat) (hlo : reservedFrom op ≤ lo) : w.extractLsb' lo 8 = 0 := by
  simpa [BitVec.extractLsb'_eq_zero] using (setWidth_extractLsb'_of_reservedBits hclear lo 0 hlo).symm

/-- A word with the OP of an operation and no reserved bit set is the word of the request its fields make. -/
theorem encode_instrOfFields (hop : fieldOP w = opCode op) : encode (instrOfFields op w) = w := by
  have hzero := extractLsb'_eq_zero_of_reservedBits hclear
  have hlow := setWidth_extractLsb'_of_reservedBits hclear
  have hz : fieldZ w = 0 := hzero 56 (by cases op <;> decide)
  conv_rhs => rw [← packRequest_fields hz, hop]
  cases op with
  | frameEncode => rfl
  | _ =>
    simp (disch := decide) only [encode, instrOfFields, Instr.op, ofBool_getLsbD_zero, fieldA, fieldB, fieldC, fieldD,
      fieldE, fieldF, hlow, hzero]

end clear

/-- Settles O10: a word that decodes has its operation's OP and no reserved bit set, so its fields make up all of it. -/
theorem encodeOfDecodeIsIdentity : Obligations.EncodeOfDecodeIsIdentity := by
  intro w i hdecode
  have hop := fieldOP_of_decode hdecode
  by_cases hclear : reservedBits i.op w = 0
  · rw [decode_dispatch hop hclear] at hdecode
    calc encode i = encode (instrOfFields i.op w) := by rw [Except.ok.inj hdecode]
      _ = w := encode_instrOfFields hclear hop
  · rw [decode_reserved hop hclear] at hdecode
    cases hdecode

/-! ## One response for each request (`30_encoding.md` R71) -/

/-- Serving a word appends one response and leaves the port as it is. -/
theorem serve_next_responses {s t : State} {w : RequestWord} (h : serve w s = .next t) :
    t.pending = s.pending ∧ ∃ r, t.responses = s.responses ++ [r] := by
  obtain ⟨i, u, d, -, hwrites, rfl⟩ | ⟨c, -, rfl⟩ := serve_next_cases h
  · exact ⟨hwrites.pending_eq, ⟨none, d⟩, by rw [← hwrites.responses_eq]; rfl⟩
  · exact ⟨rfl, ⟨some c, 0⟩, rfl⟩

/-- Settles O44: the step takes the word off the port and serves it, with one response. -/
theorem everyRequestGetsOneResponse : Obligations.EveryRequestGetsOneResponse := by
  intro s w rest hpending
  obtain ⟨t, hserve⟩ := serve_next w { s with pending := rest }
  obtain ⟨hport, r, hr⟩ := serve_next_responses hserve
  exact ⟨t, r, (step_request hpending).trans hserve, hport, hr⟩

/-! ## The assembler's arguments (`30_encoding.md` R76, R87) -/

theorem argByte_isSome (a : Arg) : (argByte a).isSome = a.isInteger := by cases a <;> rfl

theorem argIndex_isSome (w : Nat) (a : Arg) : (argIndex w a).isSome = a.fits (2 ^ w) := by
  cases a with
  | int v => by_cases h : (Arg.int v).fits (2 ^ w) = true <;> simp [argIndex, h]
  | nonInteger => rfl

theorem argIndex_natCast {w k : Nat} (hk : k < 2 ^ w) : argIndex w (.int k) = some (BitVec.ofNat w k) := by
  have hfits : (Arg.int k).fits (2 ^ w) = true := by
    simp only [Arg.fits, Bool.and_eq_true, decide_eq_true_eq]
    exact ⟨Int.natCast_nonneg k, Int.ofNat_lt.2 hk⟩
  simp [argIndex, hfits]

theorem mapM_argByte_int (vs : List Int) : (vs.map Arg.int).mapM argByte = some (vs.map wrap8) := by
  induction vs with
  | nil => rfl
  | cons v vs ih => simp [List.mapM_cons, ih]

/-- A list of arguments holds integers alone, or one that is none. -/
theorem eq_map_int_or_mem_nonInteger (args : List Arg) :
    (∃ vs : List Int, args = vs.map Arg.int) ∨ .nonInteger ∈ args := by
  induction args with
  | nil => exact .inl ⟨[], rfl⟩
  | cons a args ih =>
    cases a with
    | nonInteger => exact .inr List.mem_cons_self
    | int v =>
      obtain ⟨vs, rfl⟩ | hmem := ih
      · exact .inl ⟨v :: vs, rfl⟩
      · exact .inr (List.mem_cons_of_mem _ hmem)

theorem all_isInteger_map_int (vs : List Int) : (vs.map Arg.int).all Arg.isInteger = true := by
  simp [Arg.isInteger]

theorem all_isInteger_of_mem_nonInteger {args : List Arg} (h : .nonInteger ∈ args) :
    args.all Arg.isInteger = false :=
  List.all_eq_false.2 ⟨_, h, nofun⟩

theorem mapM_argByte_isSome (args : List Arg) : (args.mapM argByte).isSome = args.all Arg.isInteger := by
  obtain ⟨vs, rfl⟩ | hmem := eq_map_int_or_mem_nonInteger args
  · rw [mapM_argByte_int, all_isInteger_map_int]; rfl
  · rw [mapM_argByte_eq_none hmem, all_isInteger_of_mem_nonInteger hmem]; rfl

/-! ## The assembler's lines (`30_encoding.md` R87, R88) -/

/-- FRAME_ENCODE with integer operands: the wrapped bytes, a default for each omitted parameter, at most four. -/
theorem assemble_frameEncode_ints (cmd sub : Int) (ps : List Int) :
    assemble (.frameEncode (.int cmd) (.int sub) (ps.map .int)) =
      if ps.length ≤ 4 then
        some [.frameEncode (wrap8 cmd) (wrap8 sub) (paramAt (ps.map wrap8) 0) (paramAt (ps.map wrap8) 1)
          (paramAt (ps.map wrap8) 2) (paramAt (ps.map wrap8) 3)]
      else none := by
  simp [assemble, mapM_argByte_int, -List.mapM_map]

theorem assemble_crcBlock_ints (bs : List Int) : assemble (.crcBlock (bs.map .int)) =
    some (Instr.crcInit :: bs.map (fun b => .crcUpdate (wrap8 b)) ++ [.crcRead]) := by
  simp [assemble, mapM_argByte_int, -List.mapM_map]

theorem assemble_snapLoad_ints (es : List Int) : assemble (.snapLoad (es.map .int)) =
    some (Instr.snapBegin :: es.map (fun e => .snapPush (wrap8 e) true) ++ [.snapEnd]) := by
  simp [assemble, mapM_argByte_int, -List.mapM_map]

/-- FRAME_ENCODE's operands are all integers, or one of them is none. -/
theorem frameEncode_operands_cases (cmd sub : Arg) (params : List Arg) :
    (∃ (c e : Int) (ps : List Int), cmd = .int c ∧ sub = .int e ∧ params = ps.map Arg.int) ∨
      .nonInteger ∈ cmd :: sub :: params := by
  obtain ⟨_ | ⟨c, _ | ⟨e, ps⟩⟩, h⟩ | hmem := eq_map_int_or_mem_nonInteger (cmd :: sub :: params)
  · cases h
  · cases h
  · cases h; exact .inl ⟨c, e, ps, rfl, rfl, rfl⟩
  · exact .inr hmem

theorem assemble_frameEncode_isSome (cmd sub : Arg) (params : List Arg) :
    (assemble (.frameEncode cmd sub params)).isSome = (Line.frameEncode cmd sub params).wf := by
  obtain ⟨c, e, ps, rfl, rfl, rfl⟩ | hmem := frameEncode_operands_cases cmd sub params
  · rw [assemble_frameEncode_ints]
    by_cases h : ps.length ≤ 4 <;> simp [Line.wf, Arg.isInteger, h]
  · rw [assemble_frameEncode_nonInteger hmem]
    have hall := all_isInteger_of_mem_nonInteger hmem
    rw [List.all_cons, List.all_cons, ← Bool.and_assoc] at hall
    simp [Line.wf, hall]

theorem any_const {α : Type} (x : Option α) (b : Bool) : x.any (fun _ => b) = (x.isSome && b) := by cases x <;> rfl

/-- The assembler takes exactly the well-formed lines. -/
theorem assemble_isSome (l : Line) : (assemble l).isSome = l.wf := by
  cases l with
  | frameEncode cmd sub params => exact assemble_frameEncode_isSome cmd sub params
  | _ => simp [assemble, Line.wf, Option.isSome_bind, any_const, argByte_isSome, argIndex_isSome, mapM_argByte_isSome]

/-- Settles O53: line by line, and an index below 16 fits a field of four bits. -/
theorem assemblerTakesWellFormedLines : Obligations.AssemblerTakesWellFormedLines := by
  refine ⟨assemble_isSome, fun k hk => ?_⟩
  have hindex : argIndex 4 (.int k) = some (BitVec.ofNat 4 k) := argIndex_natCast hk
  constructor <;> simp [assemble, hindex]

/-! ## The pseudo-instructions (`30_encoding.md` R88) -/

/-- A parameter written as the default is the omitted one. -/
theorem paramAt_append_default (ps : List Byte) (k : Nat) : paramAt (ps ++ [paramDefault]) k = paramAt ps k := by
  obtain hk | hk | hk := lt_trichotomy k ps.length
  · simp [paramAt, List.getElem?_append_left hk]
  · simp [paramAt, hk]
  · simp [paramAt, hk, Nat.le_of_lt hk]

/-- FRAME_ENCODE with fewer than four parameters is the line with one 0 more. -/
theorem assemble_frameEncode_eq_append_zero (cmd sub : Arg) {params : List Arg} (h : params.length < 4) :
    assemble (.frameEncode cmd sub params) = assemble (.frameEncode cmd sub (params ++ [Arg.int 0])) := by
  obtain ⟨c, e, ps, rfl, rfl, rfl⟩ | hmem := frameEncode_operands_cases cmd sub params
  · rw [List.length_map] at h
    have hzero : ps.map Arg.int ++ [.int 0] = (ps ++ [0]).map Arg.int := by simp
    have hwrap : (ps ++ [0]).map wrap8 = ps.map wrap8 ++ [paramDefault] := List.map_append
    rw [hzero, assemble_frameEncode_ints, assemble_frameEncode_ints, hwrap, if_pos (by omega), if_pos (by simp; omega)]
    simp only [paramAt_append_default]
  · have hlonger : .nonInteger ∈ cmd :: sub :: (params ++ [Arg.int 0]) := List.mem_append_left [Arg.int 0] hmem
    rw [assemble_frameEncode_nonInteger hmem, assemble_frameEncode_nonInteger hlonger]

/-- Settles O54: each short form of FRAME_ENCODE is the next longer one with the default written out. -/
theorem pseudoInstructionsExpand : Obligations.PseudoInstructionsExpand := by
  have hthree (c e p1 p2 p3 : Arg) : assemble (.frameEncode c e [p1, p2, p3]) =
      assemble (.frameEncode c e [p1, p2, p3, .int 0]) :=
    assemble_frameEncode_eq_append_zero c e (by simp)
  have htwo (c e p1 p2 : Arg) : assemble (.frameEncode c e [p1, p2]) =
      assemble (.frameEncode c e [p1, p2, .int 0, .int 0]) :=
    (assemble_frameEncode_eq_append_zero c e (by simp)).trans (hthree c e p1 p2 (.int 0))
  have hone (c e p1 : Arg) : assemble (.frameEncode c e [p1]) =
      assemble (.frameEncode c e [p1, .int 0, .int 0, .int 0]) :=
    (assemble_frameEncode_eq_append_zero c e (by simp)).trans (htwo c e p1 (.int 0))
  have hnone (c e : Arg) : assemble (.frameEncode c e []) =
      assemble (.frameEncode c e [.int 0, .int 0, .int 0, .int 0]) :=
    (assemble_frameEncode_eq_append_zero c e (by simp)).trans (hone c e (.int 0))
  have hpush (b : Arg) : assemble (.snapPushValid b) = assemble (.snapPush b (.int 1)) := by cases b <;> rfl
  exact ⟨hnone, hone, htwo, hthree, hpush, rfl, assemble_crcBlock_ints, assemble_snapLoad_ints, rfl⟩

/-! ## Snapshot elements (`30_encoding.md` R86) -/

theorem elementOfArg_of_range {v : Int} (h : 0 ≤ v ∧ v ≤ 255) : elementOfArg (.int v) = ⟨wrap8 v, true⟩ :=
  if_pos h

theorem elementOfArg_of_not_range {v : Int} (h : ¬(0 ≤ v ∧ v ≤ 255)) : elementOfArg (.int v) = ⟨0, false⟩ :=
  if_neg h

/-- Settles O55: an integer in 0..255 is its own remainder modulo 256. -/
theorem elementsAreValidBytes : Obligations.ElementsAreValidBytes := by
  refine ⟨fun a => ?_, fun v hlow hhigh => ?_⟩
  · cases a with
    | nonInteger => simp [elementOfArg]
    | int v =>
      by_cases h : 0 ≤ v ∧ v ≤ 255
      · simp [elementOfArg_of_range h, h]
      · simp only [elementOfArg_of_not_range h]
        simpa using h
  · rw [elementOfArg_of_range ⟨hlow, hhigh⟩, wrap8_toNat, Int.toNat_of_nonneg (by omega)]
    omega

end Sys2Proof.Machine

/-! SUPPORT. The CRC by its top byte, the CRC of a sequence, the CRC register along a run, words with an operation's OP,
and the statements of `40_crc.md` (O20, O17, O14, O16, O18, O19, O21, O12, O13, O15). -/

namespace Sys2Proof.Machine

/-! ## The step by the top byte of the remainder (`40_crc.md` R100, R108) -/

/-- The byte of a step and the top byte of the remainder enter at the same place. -/
theorem crcStep_xor_topByte (c : Crc) (a b : Byte) : crcStep (c ^^^ a.setWidth 16 <<< 8) b = crcStep c (a ^^^ b) := by
  unfold crcStep
  rw [BitVec.setWidth_xor, BitVec.shiftLeft_xor_distrib, BitVec.xor_assoc]

/-- With nothing in the top byte, eight shifts move the low byte up. -/
theorem crcStep_lowByte_zero (b : Byte) : crcStep (b.setWidth 16) 0 = b.setWidth 16 <<< 8 := by
  simpa [crcStep] using crcShifts_lowByte b

theorem shiftLeft_eq_crcLo (c : Crc) : c <<< 8 = (crcLo c).setWidth 16 <<< 8 := by
  apply BitVec.eq_of_getLsbD_eq
  intro i hi
  simp only [crcLo, BitVec.getLsbD_shiftLeft, BitVec.getLsbD_setWidth, BitVec.getLsbD_extractLsb']
  interval_cases i <;> simp

@[simp] theorem crcHi_shiftLeft (c : Crc) : crcHi (c <<< 8) = crcLo c := by
  apply BitVec.eq_of_getLsbD_eq
  intro i hi
  simp only [crcHi, crcLo, BitVec.getLsbD_shiftLeft, BitVec.getLsbD_extractLsb']
  interval_cases i <;> simp

@[simp] theorem crcLo_shiftLeft (c : Crc) : crcLo (c <<< 8) = 0#8 := by
  apply BitVec.eq_of_getLsbD_eq
  intro i hi
  simp only [crcLo, BitVec.getLsbD_shiftLeft, BitVec.getLsbD_extractLsb']
  interval_cases i <;> simp

/-- The low byte moves up unchanged, and the top byte and the byte of the step select the row of the table. -/
theorem crcStep_eq_table (c : Crc) (b : Byte) : crcStep c b = c <<< 8 ^^^ crcTable (crcHi c ^^^ b) := by
  have hsplit : c = (crcLo c).setWidth 16 ^^^ (crcHi c).setWidth 16 <<< 8 :=
    (crc_eq_hi_lo c).trans (BitVec.xor_comm ..)
  calc crcStep c b
      = crcStep ((crcLo c).setWidth 16 ^^^ (crcHi c).setWidth 16 <<< 8) b := by rw [← hsplit]
    _ = crcStep ((crcLo c).setWidth 16 ^^^ 0#16) (0#8 ^^^ (crcHi c ^^^ b)) := by
        rw [crcStep_xor_topByte, BitVec.xor_zero, BitVec.zero_xor]
    _ = crcStep ((crcLo c).setWidth 16) 0 ^^^ crcTable (crcHi c ^^^ b) := crcStep_xor ..
    _ = c <<< 8 ^^^ crcTable (crcHi c ^^^ b) := by rw [crcStep_lowByte_zero, ← shiftLeft_eq_crcLo]

/-- Settles O20: the table form is the step split at the top byte of the remainder. -/
theorem crcTableFormAgrees : Obligations.CrcTableFormAgrees :=
  fun c b => ⟨(crcStep_eq_table c b).symm, (crcStep_eq_table c b).symm⟩

/-! ## The step as a polynomial remainder -/

/-- The quotient of `i * x^16` by the generator: `i + i / x^4`. -/
def tableQuotient (i : Byte) : Byte := i ^^^ i >>> 4

/-- Each row of the table is the remainder of its index at x^16. -/
theorem crcTable_remainder : ∀ i : Byte,
    i.setWidth 32 <<< 16 = polyMul (tableQuotient i) crcGenerator ^^^ (crcTable i).setWidth 32 := by decide +kernel

/-- In 32 bits nothing is lost when a remainder moves up by a byte: its top byte stands above the 16 bits. -/
theorem setWidth_shiftLeft_eq_crcHi (c : Crc) :
    c.setWidth 32 <<< 8 = (crcHi c).setWidth 32 <<< 16 ^^^ (c <<< 8).setWidth 32 := by
  apply BitVec.eq_of_getLsbD_eq
  intro i hi
  simp only [crcHi, BitVec.getLsbD_xor, BitVec.getLsbD_shiftLeft, BitVec.getLsbD_setWidth, BitVec.getLsbD_extractLsb']
  interval_cases i <;> simp

/-- Settles O17: what stands above the 16 bits of the remainder is the row's index, and the row is its remainder. -/
theorem crcStepIsThePolynomialRemainder : Obligations.CrcStepIsThePolynomialRemainder := by
  intro c b
  refine ⟨tableQuotient (crcHi c ^^^ b), ?_⟩
  calc c.setWidth 32 <<< 8 ^^^ b.setWidth 32 <<< 16
      = (crcHi c ^^^ b).setWidth 32 <<< 16 ^^^ (c <<< 8).setWidth 32 := by
        rw [setWidth_shiftLeft_eq_crcHi, BitVec.setWidth_xor, BitVec.shiftLeft_xor_distrib, BitVec.xor_assoc,
          BitVec.xor_comm ((c <<< 8).setWidth 32), ← BitVec.xor_assoc]
    _ = polyMul (tableQuotient (crcHi c ^^^ b)) crcGenerator ^^^
          (c <<< 8 ^^^ crcTable (crcHi c ^^^ b)).setWidth 32 := by
        rw [crcTable_remainder, BitVec.xor_assoc, ← BitVec.setWidth_xor, BitVec.xor_comm (crcTable _)]
    _ = polyMul (tableQuotient (crcHi c ^^^ b)) crcGenerator ^^^ (crcStep c b).setWidth 32 := by
        rw [crcStep_eq_table]

/-! ## The fixed points of a step with the zero byte (`40_crc.md` R103) -/

theorem crcLo_xor (c d : Crc) : crcLo (c ^^^ d) = crcLo c ^^^ crcLo d := BitVec.extractLsb'_xor

/-- The low byte that a step leaves is the low byte of the table's row. -/
theorem crcLo_crcStep (c : Crc) (b : Byte) : crcLo (crcStep c b) = crcLo (crcTable (crcHi c ^^^ b)) := by
  rw [crcStep_eq_table, crcLo_xor, crcLo_shiftLeft, BitVec.zero_xor]

/-- For each top byte, the one value whose low byte a step with 0x00 keeps is a fixed point only in two cases. -/
theorem crcStep_zero_fixed_of_topByte : ∀ i : Byte,
    let c : Crc := i ++ crcLo (crcTable i)
    crcStep c 0#8 = c → c = 0x0000 ∨ c = 0xF01F := by decide +kernel

theorem crcStep_zero_eq_self_iff (c : Crc) : crcStep c 0#8 = c ↔ c = 0x0000 ∨ c = 0xF01F := by
  constructor
  · intro h
    have hlo : crcLo c = crcLo (crcTable (crcHi c)) := by
      calc crcLo c = crcLo (crcTable (crcHi c ^^^ 0#8)) := by rw [← crcLo_crcStep, h]
        _ = crcLo (crcTable (crcHi c)) := by rw [BitVec.xor_zero]
    have hc : crcHi c ++ crcLo (crcTable (crcHi c)) = c := by rw [← hlo, crcHi_append_crcLo]
    have hcases := crcStep_zero_fixed_of_topByte (crcHi c)
    simp only [hc] at hcases
    exact hcases h
  · rintro (rfl | rfl)
    · exact crcStep_zero
    · decide +kernel

/-- Settles O14: CRC_UPDATE writes the step, and the step with 0x00 has two fixed points. -/
theorem zeroByteChangesAllButTwoCrcs : Obligations.ZeroByteChangesAllButTwoCrcs :=
  fun s => ⟨_, rfl, crcStep_zero_eq_self_iff s.crc⟩

/-! ## The CRC of a sequence (`40_crc.md` R101, R106, R107) -/

@[simp] theorem crc16_nil : crc16 [] = 0x0000 := rfl

@[simp] theorem crc16_append_singleton (bs : List Byte) (b : Byte) : crc16 (bs ++ [b]) = crcStep (crc16 bs) b :=
  List.foldl_concat ..

theorem crc16_replicate_zero (n : Nat) : crc16 (List.replicate n 0x00) = 0x0000 := by
  induction n with
  | zero => rfl
  | succ n ih => rw [List.replicate_succ', crc16_append_singleton, ih]; exact crcStep_zero

/-- Settles O16: the fold on its two cases, and the step's fixed point 0. -/
theorem crcOfASequenceIsTheFold : Obligations.CrcOfASequenceIsTheFold :=
  ⟨crc16_nil, crc16_append_singleton, crc16_replicate_zero⟩

/-- The fold is linear in the start value and the bytes together. -/
theorem foldl_crcStep_zipWith_xor (c d : Crc) {x y : List Byte} (h : x.length = y.length) :
    (List.zipWith (· ^^^ ·) x y).foldl crcStep (c ^^^ d) = x.foldl crcStep c ^^^ y.foldl crcStep d := by
  induction x generalizing y c d with
  | nil => rw [List.length_eq_zero_iff.1 h.symm]; rfl
  | cons a x ih =>
    cases y with
    | nil => cases h
    | cons b y =>
      rw [List.zipWith_cons_cons, List.foldl_cons, crcStep_xor, ih _ _ (Nat.succ.inj h)]
      rfl

theorem crc16_zipWith_xor {x y : List Byte} (h : x.length = y.length) :
    crc16 (List.zipWith (· ^^^ ·) x y) = crc16 x ^^^ crc16 y :=
  foldl_crcStep_zipWith_xor 0 0 h

/-- Settles O18: every step is linear, and so is the fold. -/
theorem crcIsLinear : Obligations.CrcIsLinear := by
  intro x y h
  refine ⟨crc16_zipWith_xor h, ?_⟩
  rw [crc16_zipWith_xor h, BitVec.xor_comm (crc16 x), BitVec.xor_assoc, BitVec.xor_self, BitVec.xor_zero]

/-- A step with the remainder's own top byte only moves the low byte up. -/
theorem crcStep_crcHi (c : Crc) : crcStep c (crcHi c) = c <<< 8 := by
  rw [crcStep_eq_table, BitVec.xor_self, show crcTable 0#8 = 0#16 from crcStep_zero, BitVec.xor_zero]

/-- A remainder's own two bytes, high byte first, clear it. -/
theorem crcStep_crcHi_crcLo (c : Crc) : crcStep (crcStep c (crcHi c)) (crcLo c) = 0 := by
  have hshift : c <<< 8 <<< 8 = 0 := by rw [shiftLeft_eq_crcLo, crcLo_shiftLeft]; rfl
  calc crcStep (crcStep c (crcHi c)) (crcLo c) = crcStep (c <<< 8) (crcHi (c <<< 8)) := by
        rw [crcStep_crcHi, crcHi_shiftLeft]
    _ = 0 := by rw [crcStep_crcHi, hshift]

theorem crc16_append_crc (m : List Byte) : crc16 (m ++ [crcHi (crc16 m), crcLo (crc16 m)]) = 0x0000 := by
  rw [List.append_cons, crc16_append_singleton, crc16_append_singleton, crcStep_crcHi_crcLo]

/-- Settles O19: a sequence's CRC clears the remainder it leaves, and a frame's bytes 1..9 are such a sequence. -/
theorem crcResidueIsZero : Obligations.CrcResidueIsZero :=
  ⟨crc16_append_crc, fun inst cmd sub p1 p2 p3 p4 => crc16_append_crc [cmd, sub, p1, p2, p3, p4, inst.endByte]⟩

/-! ## The CRC register along a run (`40_crc.md` R105) -/

/-- What a request makes of the CRC register (`40_crc.md` R102, R103, `20_memory.md` R60). -/
def crcAfter : Instr → Crc → Crc
  | .crcInit, _ => crcInitial
  | .crcUpdate a, c => crcStep c a
  | _, c => c

/-- What a word makes of the CRC register: a word that faults in the decoder leaves it. -/
def crcAfterWord (c : Crc) (w : RequestWord) : Crc :=
  match decode w with
  | .ok i => crcAfter i c
  | .error _ => c

theorem crcAfterWord_ok {w : RequestWord} {i : Instr} (h : decode w = .ok i) (c : Crc) :
    crcAfterWord c w = crcAfter i c := by
  simp [crcAfterWord, h]

theorem crcAfterWord_error {w : RequestWord} {code : FaultCode} (h : decode w = .error code) (c : Crc) :
    crcAfterWord c w = c := by
  simp [crcAfterWord, h]

@[simp] theorem crcAfterWord_encode (i : Instr) (c : Crc) : crcAfterWord c (encode i) = crcAfter i c :=
  crcAfterWord_ok (decodeOfEncodeIsIdentity i) c

theorem crcAfter_of_op {i : Instr} (hinit : i.op ≠ .crcInit) (hupdate : i.op ≠ .crcUpdate) (c : Crc) :
    crcAfter i c = c := by
  cases i with
  | crcInit => exact absurd rfl hinit
  | crcUpdate => exact absurd rfl hupdate
  | _ => rfl

/-- Requests of other units and words that fault in the decoder leave the CRC register. -/
theorem crcAfterWord_of_isOfUnit {w : RequestWord} (h : isOfUnit .crcUnit w = false) (c : Crc) :
    crcAfterWord c w = c := by
  cases hw : decode w with
  | error code => exact crcAfterWord_error hw c
  | ok i =>
    have hunit := (isOfUnit_eq_false_iff hw).1 h
    rw [crcAfterWord_ok hw, crcAfter_of_op (fun hop => hunit (by rw [hop]; rfl)) (fun hop => hunit (by rw [hop]; rfl))]

theorem Writes.crc_eq_crcAfter {s t : State} {i : Instr} (h : Writes s i t) : t.crc = crcAfter i s.crc := by
  cases h with
  | read reads => exact (crcAfter_of_op (fun hop => by simp [hop] at reads) (fun hop => by simp [hop] at reads) _).symm
  | _ => rfl

theorem Raises.crcAfter_eq {s : State} {i : Instr} {code : FaultCode} (h : Raises s i code) (c : Crc) :
    crcAfter i c = c := by
  cases h <;> rfl

theorem serve_crc {s t : State} {w : RequestWord} (h : serve w s = .next t) : t.crc = crcAfterWord s.crc w := by
  obtain ⟨i, u, d, hdecode, hwrites, rfl⟩ | ⟨code, hfaults, rfl⟩ := serve_next_cases h
  · rw [crcAfterWord_ok hdecode]
    exact hwrites.crc_eq_crcAfter
  · cases hfaults with
    | decoder error => exact (crcAfterWord_error error _).symm
    | request ok raises => rw [crcAfterWord_ok ok, raises.crcAfter_eq]; rfl

/-- The CRC register after a run is the fold of what its words make of it. -/
theorem runAll_issueAll_crc {ws : List RequestWord} {s t : State} (h : runAll (s.issueAll ws) = .next t) :
    t.crc = ws.foldl crcAfterWord s.crc := by
  induction ws generalizing s with
  | nil =>
    rw [runAll_issueAll_nil] at h
    cases h
    rfl
  | cons w ws ih =>
    obtain ⟨u, hserve⟩ := serve_next w s
    rw [runAll_issueAll_cons hserve] at h
    rw [ih h, serve_crc hserve, List.foldl_cons]

/-- A fold that one of two interleaved streams leaves alone is the fold over the other stream. -/
theorem Interleaving.foldl_eq {α : Type} {xs ys merged : List RequestWord} (h : Interleaving xs ys merged)
    {f : α → RequestWord → α} (hys : ∀ w ∈ ys, ∀ c, f c w = c) (c : α) : merged.foldl f c = xs.foldl f c := by
  induction h generalizing c with
  | done => rfl
  | left w _ ih => exact ih hys _
  | right w _ ih => rw [List.foldl_cons, hys w List.mem_cons_self, ih fun v hv => hys v (List.mem_cons_of_mem w hv)]

/-- CRC_INIT and a CRC_UPDATE for each byte leave the CRC of the bytes, whatever the register held. -/
theorem foldl_crcAfterWord_requests (bs : List Byte) (c : Crc) :
    (encode .crcInit :: bs.map fun b => encode (.crcUpdate b)).foldl crcAfterWord c = crc16 bs := by
  simp only [List.foldl_cons, List.foldl_map, crcAfterWord_encode]
  rfl

/-- Settles O21: the other words leave the register, so the run leaves the CRC there, and CRC_READ answers it. -/
theorem crcUnitComputesTheCrc : Obligations.CrcUnitComputesTheCrc := by
  intro s bs others merged hothers hmerged
  obtain ⟨t, ht, hrest⟩ := requestsTakeEffectInIssueOrder s merged [encode .crcRead]
  have hcrc : t.crc = crc16 bs := by
    rw [runAll_issueAll_crc ht, hmerged.foldl_eq fun w hw => crcAfterWord_of_isOfUnit (hothers w hw),
      foldl_crcAfterWord_requests]
  have hread : serve (encode .crcRead) t = .next (t.answered (zext32 t.crc)) :=
    serve_ok (decodeOfEncodeIsIdentity .crcRead) t
  refine ⟨_, hrest.trans ((runAll_issueAll_cons hread []).trans (runAll_issueAll_nil _)), hcrc, ?_⟩
  rw [← hcrc]
  exact List.getLast?_concat

/-! ## The words of one operation (`30_encoding.md` R74, R79) -/

section words
variable {w : RequestWord} {op : Op} (hop : fieldOP w = opCode op)
include hop

/-- A word with the operation's OP and 0 above the used operand bits spells the operation's request. -/
theorem decode_of_highBits_eq_zero (h : w.extractLsb' (reservedFrom op) (64 - reservedFrom op) = 0) :
    decode w = .ok (instrOfFields op w) :=
  decode_dispatch hop ((reservedBits_eq_zero_iff op w).2 h)

/-- Any other word with the operation's OP answers E_RESERVED. -/
theorem step_issue_of_highBits_ne_zero (h : w.extractLsb' (reservedFrom op) (64 - reservedFrom op) ≠ 0) (s : State) :
    step (s.issue w) = .next (s.faulted .eReserved (opCode op)) := by
  rw [step_issue, serve_error (decode_reserved hop (mt (reservedBits_eq_zero_iff op w).1 h)), hop]

end words

/-- Settles O12: CRC_INIT uses no operand bit, so its words have 0 from bit 8 up. -/
theorem crcInitClearsTheRegister : Obligations.CrcInitClearsTheRegister :=
  fun s => ⟨rfl, fun _ hop => ⟨decode_of_highBits_eq_zero (op := .crcInit) hop,
    fun h => step_issue_of_highBits_ne_zero (op := .crcInit) hop h s⟩⟩

/-- Settles O13: CRC_UPDATE uses A alone, so its words have 0 from bit 16 up. -/
theorem crcUpdateStepsTheRegister : Obligations.CrcUpdateStepsTheRegister :=
  ⟨by decide, by decide, by decide, fun s => ⟨fun _ => rfl, fun _ hop =>
    ⟨decode_of_highBits_eq_zero (op := .crcUpdate) hop,
      fun h => step_issue_of_highBits_ne_zero (op := .crcUpdate) hop h s⟩⟩⟩

/-- Settles O15: CRC_READ uses no operand bit, so its words have 0 from bit 8 up. -/
theorem crcReadReturnsTheRegister : Obligations.CrcReadReturnsTheRegister :=
  fun s => ⟨rfl, fun _ hop => ⟨decode_of_highBits_eq_zero (op := .crcRead) hop,
    fun h => step_issue_of_highBits_ne_zero (op := .crcRead) hop h s⟩⟩

end Sys2Proof.Machine

/-! SUPPORT. What FRAME_ENCODE leaves, what a run keeps, and the statements of `41_frame.md` (O24, O26, O22, O23,
O25). -/

namespace Sys2Proof.Machine

/-! ## FRAME_ENCODE (`41_frame.md` R120, R121, R123, R126) -/

/-- FRAME_ENCODE writes the frame and answers its CRC: what serving its word does. -/
theorem exec_frameEncode (s : State) (cmd sub p1 p2 p3 p4 : Byte) :
    exec (.frameEncode cmd sub p1 p2 p3 p4) s =
      .next ((s.setFrame (encodeFrame s.inst cmd sub p1 p2 p3 p4)).answered
        (zext32 (crc16 [cmd, sub, p1, p2, p3, p4, s.inst.endByte]))) :=
  (serve_ok (decode_encode_frameEncode cmd sub p1 p2 p3 p4) s).symm.trans (serve_frameEncode s cmd sub p1 p2 p3 p4)

/-- Settles O24: the parameters are all that FRAME_ENCODE reads of the state, and the frame and the response all that it
writes. -/
theorem frameEncodeIsPure : Obligations.FrameEncodeIsPure := by
  intro s₁ s₂ cmd sub p1 p2 p3 p4 hinst
  have h₂ := exec_frameEncode s₂ cmd sub p1 p2 p3 p4
  rw [← hinst] at h₂
  exact ⟨_, _, _, exec_frameEncode s₁ cmd sub p1 p2 p3 p4, h₂, rfl, rfl, rfl, rfl, rfl⟩

/-- Only the table's first row is 0. -/
theorem crcTable_eq_zero_iff : ∀ i : Byte, crcTable i = 0 ↔ i = 0 := by decide +kernel

/-- After zero bytes the remainder is still 0, so one more byte leaves its row of the table. -/
theorem crc16_replicate_zero_append_singleton (n : Nat) (b : Byte) :
    crc16 (List.replicate n 0x00 ++ [b]) = crcTable b := by
  rw [crc16_append_singleton, crc16_replicate_zero]
  rfl

/-- Settles O22: the CRC after six zero operands is END_BYTE's row of the table, and FRAME_ENCODE uses all of A to F,
so its words have 0 from bit 56 up. -/
theorem frameEncodeWritesTheFrame : Obligations.FrameEncodeWritesTheFrame := by
  refine ⟨fun endByte => ?_, fun s => ⟨?_, fun w hop => ⟨decode_of_highBits_eq_zero (op := .frameEncode) hop,
    fun h => step_issue_of_highBits_ne_zero (op := .frameEncode) hop h s⟩⟩⟩
  · have hcrc : crc16 [0, 0, 0, 0, 0, 0, endByte] = crcTable endByte :=
      crc16_replicate_zero_append_singleton 6 endByte
    rw [hcrc, crcTable_eq_zero_iff]
  · rintro cmd sub p1 p2 p3 p4 _ rfl
    exact exec_frameEncode s cmd sub p1 p2 p3 p4

/-- Bytes 1 to 7 of a frame are the bytes its CRC covers. -/
theorem encodeFrame_getElem?_succ (inst : Config.Instance) (cmd sub p1 p2 p3 p4 : Byte) {k : Nat} (hk : k < 7) :
    (encodeFrame inst cmd sub p1 p2 p3 p4)[k + 1]? = [cmd, sub, p1, p2, p3, p4, inst.endByte][k]? := by
  interval_cases k <;> rfl

/-- Settles O23: the frame's last two bytes are the halves of the CRC of bytes 1 to 7. -/
theorem frameEndsInItsCrc : Obligations.FrameEndsInItsCrc := by
  intro s cmd sub p1 p2 p3 p4
  exact ⟨_, exec_frameEncode s cmd sub p1 p2 p3 p4, [cmd, sub, p1, p2, p3, p4, s.inst.endByte], _, _, rfl,
    fun _ hk => encodeFrame_getElem?_succ s.inst cmd sub p1 p2 p3 p4 hk, rfl, rfl, crcHi_append_crcLo _⟩

/-! ## FRAME_READ (`41_frame.md` R128) -/

/-- Settles O25: one clause for each answer of FRAME_READ; it uses A[3:0] alone, so its words have 0 from bit 12 up. -/
theorem frameReadReturnsAByteOrFaults : Obligations.FrameReadReturnsAByteOrFaults := by
  refine fun s => ⟨fun _ _ hi hvalid hb => execFrameRead_of_fbByte_some hi hvalid hb,
    fun _ hi => (Raises.frameRange hi).exec_eq, fun _ hi hvalid => (Raises.frameUnwritten hi (.inl hvalid)).exec_eq,
    fun w hop => ⟨fun h => ?_, fun h => step_issue_of_highBits_ne_zero (op := .frameRead) hop h s⟩⟩
  rw [decode_of_highBits_eq_zero (op := .frameRead) hop h, ← extractLsb'_fieldA w (by decide)]
  rfl

/-! ## The frame along a run (`41_frame.md` R129) -/

/-- What every word of a stream keeps, and what does not speak of the port, holds after the run of the stream. -/
theorem runAll_issueAll_preserves {P : State → Prop} {ws : List RequestWord} (hport : ∀ u, P u → P (u.issueAll []))
    (hserve : ∀ w ∈ ws, ∀ u v, P u → serve w u = .next v → P v) {s t : State} (hs : P s)
    (h : runAll (s.issueAll ws) = .next t) : P t := by
  induction ws generalizing s with
  | nil =>
    rw [runAll_issueAll_nil] at h
    cases h
    exact hport s hs
  | cons w ws ih =>
    obtain ⟨u, hu⟩ := serve_next w s
    rw [runAll_issueAll_cons hu] at h
    exact ih (fun v hv => hserve v (List.mem_cons_of_mem w hv)) (hserve w List.mem_cons_self s u hs hu) h

/-- FB holds the frame `f`, and fvalid says so. -/
def State.HoldsFrame (f : Frame) (s : State) : Prop := s.fb = some f ∧ s.fvalid = true

/-- A word that is no FRAME_ENCODE, faulting or not, leaves FB and fvalid. -/
theorem State.HoldsFrame.of_serve {f : Frame} {s t : State} {w : RequestWord} (hs : s.HoldsFrame f)
    (hw : isOp .frameEncode w = false) (h : serve w s = .next t) : t.HoldsFrame f := by
  obtain ⟨hfb, hvalid⟩ := hs
  obtain ⟨i, u, d, hdecode, hwrites, rfl⟩ | ⟨c, -, rfl⟩ := serve_next_cases h
  · obtain ⟨hfbKept, hvalidKept⟩ := hwrites.frame_eq ((isOp_eq_false_iff hdecode).1 hw)
    exact ⟨hfbKept.trans hfb, hvalidKept.trans hvalid⟩
  · exact ⟨hfb, hvalid⟩

/-- FRAME_READ at an index of the frame in FB answers the frame's byte. -/
theorem State.HoldsFrame.serve_frameRead {f : Frame} {s : State} (hs : s.HoldsFrame f) {i : BitVec 4} {b : Byte}
    (hb : f[i.toNat]? = some b) : serve (encode (.frameRead i)) s = .next (s.answered (zext32 b)) := by
  obtain ⟨hfb, hvalid⟩ := hs
  obtain ⟨hi, -⟩ := Vector.getElem?_eq_some_iff.1 hb
  have hbyte : s.fbByte i.toNat = some b := by rw [State.fbByte, hfb]; exact hb
  exact (serve_ok (decode_encode_frameRead i) s).trans (execFrameRead_of_fbByte_some (by omega) hvalid hbyte)

/-- Settles O26: FRAME_ENCODE leaves its frame in FB, the other words keep it there, and FRAME_READ answers its byte. -/
theorem frameStaysReadable : Obligations.FrameStaysReadable := by
  intro s cmd sub p1 p2 p3 p4 others i b hothers hb
  obtain ⟨t, ht, hrest⟩ :=
    requestsTakeEffectInIssueOrder s (encode (.frameEncode cmd sub p1 p2 p3 p4) :: others) [encode (.frameRead i)]
  rw [runAll_issueAll_cons (serve_frameEncode s cmd sub p1 p2 p3 p4)] at ht
  have hframe : t.HoldsFrame (encodeFrame s.inst cmd sub p1 p2 p3 p4) :=
    runAll_issueAll_preserves (fun _ hu => hu) (fun w hw _ _ hu => hu.of_serve (hothers w hw)) ⟨rfl, rfl⟩ ht
  exact ⟨_, hrest.trans ((runAll_issueAll_cons (hframe.serve_frameRead hb) []).trans (runAll_issueAll_nil _)),
    List.getLast?_concat⟩

end Sys2Proof.Machine

/-! SUPPORT. The snapshot extractor's requests, what a stream of pushes stages, what the extractor's state depends on,
the reads over DeviceState, and the statements of `42_snapshot.md` (O32, O33, O34, O35, O29, O30, O31, O36, O37, O38,
O39). -/

namespace Sys2Proof.Machine

/-! ## SNAP_END (`42_snapshot.md` R143, R145) -/

/-- A commit's DS entry is the byte staged at the same index. -/
theorem dsByte_commit_eq_sbByte {s : State} {fields : Vector Byte 12} (h : stagedFields s.sb = some fields) {i : Nat}
    (hlow : 1 ≤ i) (hhigh : i ≤ 12) : (s.commit fields).dsByte i = s.sbByte i := by
  obtain ⟨k, rfl⟩ := Nat.exists_eq_add_of_le' hlow
  have hk : k < 12 := by omega
  rw [dsByte_succ _ hk, sbByte_eq s (by omega)]
  exact ((stagedFields_eq_some_iff s.sb fields).1 h ⟨k, hk⟩).symm

/-- Settles O32: a commit copies each staged entry, a reject keeps DS, and the invariant rules the fault out. -/
theorem snapEndIsAllOrNothing : Obligations.SnapEndIsAllOrNothing := by
  intro s hs
  obtain ⟨fields, -, hfields, h⟩ | ⟨haccepts, hnone, -⟩ | ⟨-, h⟩ := execSnapEnd_cases s
  · exact ⟨_, h, .inl fun i hlow hhigh =>
      ⟨dsByte_commit_eq_sbByte hfields hlow hhigh, (dsByte_isSome_iff _ i).2 ⟨hlow, hhigh⟩⟩⟩
  · exact absurd hnone (hs.stagedFields_ne_none haccepts)
  · exact ⟨_, h, .inr fun _ => rfl⟩

/-! ## The payload-level decode (`42_snapshot.md` R140, R144) -/

/-- A payload has fields exactly when it has 13 valid elements, and field i is then element i. -/
theorem payloadFields_eq_some_iff (es : List Element) (fields : Vector Byte 12) :
    payloadFields es = some fields ↔ (es.length = 13 ∧ ∀ e ∈ es, e.valid = true) ∧
      ∀ i : Fin 12, (es[i.val + 1]?).map Element.byte = some fields[i.val] := by
  unfold payloadFields
  split
  next hvalid =>
    have helement (i : Fin 12) : es[i.val + 1]? = some (es[i.val + 1]'(by omega)) := List.getElem?_eq_getElem _
    simp only [and_iff_right hvalid, helement, Option.map_some, Option.some.injEq]
    constructor
    · rintro rfl i
      simp
    · intro h
      exact Vector.ext fun i hi => by simp [h ⟨i, hi⟩]
  next hinvalid => simp [hinvalid]

theorem payloadFields_isSome_iff (es : List Element) :
    (payloadFields es).isSome = true ↔ es.length = 13 ∧ ∀ e ∈ es, e.valid = true := by
  unfold payloadFields
  split <;> simp_all

theorem decodePayload_of_some {es : List Element} {fields : Vector Byte 12} (h : payloadFields es = some fields)
    (ds : Vector Byte 12) : decodePayload es ds = (fields, true) := by
  simp [decodePayload, h]

theorem decodePayload_of_none {es : List Element} (h : payloadFields es = none) (ds : Vector Byte 12) :
    decodePayload es ds = (ds, false) := by
  simp [decodePayload, h]

/-- Settles O34: the decode commits where the payload has fields, which are its elements 1 to 12. -/
theorem payloadDecodeContract : Obligations.PayloadDecodeContract := by
  intro es ds
  rw [← payloadFields_isSome_iff]
  cases hfields : payloadFields es with
  | none =>
    rw [decodePayload_of_none hfields]
    exact ⟨by simp, nofun, fun _ => rfl⟩
  | some fields =>
    rw [decodePayload_of_some hfields]
    exact ⟨by simp, fun _ => ((payloadFields_eq_some_iff es fields).1 hfields).2, nofun⟩

/-! ## SNAP_PUSH (`42_snapshot.md` R142) -/

/-- A push writes SB[scnt] alone, and nothing once scnt is 13 or more. -/
theorem sbByte_stage (s : State) (a : Byte) (v : Bool) (i : Nat) :
    (s.stage a v).sbByte i = if i = s.scnt.val ∧ s.scnt.val < 13 then some a else s.sbByte i := by
  by_cases hi : i < 13
  · rw [sbByte_eq _ hi, sbByte_eq _ hi, State.stage_sb, stagedWith_getElem _ _ _ hi]
    exact if_congr (by omega) rfl rfl
  · rw [if_neg (by omega)]
    simp [State.sbByte, hi]

/-- `es` are the elements pushed since the last clear: they are counted up to 14, an element that is not valid poisons,
and the first 13 stand in SB. -/
def State.HoldsPayload (es : List Element) (s : State) : Prop :=
  s.scnt.val = min es.length 14 ∧ s.spoison = !es.all Element.valid ∧
    ∀ k e, k < 13 → es[k]? = some e → s.sbByte k = some e.byte

theorem State.holdsPayload_clearStaging (s : State) : s.clearStaging.HoldsPayload [] :=
  ⟨rfl, rfl, nofun⟩

/-- A push adds its element to the payload. -/
theorem State.HoldsPayload.stage {es : List Element} {s : State} (hs : s.HoldsPayload es) (e : Element) :
    (s.stage e.byte e.valid).HoldsPayload (es ++ [e]) := by
  obtain ⟨hcount, hpoison, hstaged⟩ := hs
  refine ⟨?_, by simp [hpoison], fun k e' hk helement => ?_⟩
  · rw [State.stage_scnt, nextCount_val, hcount, List.length_append, List.length_singleton]
    omega
  · rw [sbByte_stage]
    obtain hlt | rfl | hgt := Nat.lt_trichotomy k es.length
    · rw [if_neg (by omega)]
      exact hstaged k e' hk (by rwa [List.getElem?_append_left hlt] at helement)
    · rw [List.getElem?_concat_length] at helement
      cases helement
      exact if_pos (by omega)
    · simp [List.getElem?_eq_none (show (es ++ [e]).length ≤ k by simp; omega)] at helement

/-- A stream of pushes adds its elements to the payload in their order, and writes nothing but the staging. -/
theorem runAll_snapPushes {held : List Element} (es : List Element) {s : State} (hs : s.HoldsPayload held) :
    ∃ t, runAll (s.issueAll (es.map fun e => encode (.snapPush e.byte e.valid))) = .next t ∧
      t.HoldsPayload (held ++ es) ∧
      t = { s with sb := t.sb, scnt := t.scnt, spoison := t.spoison, pending := [], responses := t.responses } := by
  induction es generalizing s held with
  | nil => exact ⟨_, runAll_issueAll_nil s, by rwa [List.append_nil], rfl⟩
  | cons e es ih =>
    have hserve := serve_ok (decodeOfEncodeIsIdentity (.snapPush e.byte e.valid)) s
    obtain ⟨t, ht, hpayload, hframe⟩ := ih (s := (s.stage e.byte e.valid).answered _) (hs.stage e)
    exact ⟨t, (runAll_issueAll_cons hserve _).trans ht, by rwa [List.append_cons], hframe⟩

/-! ## A payload's requests against the payload-level decode (`42_snapshot.md` R148) -/

theorem State.HoldsPayload.accepts_iff {es : List Element} {s : State} (hs : s.HoldsPayload es) :
    s.accepts = true ↔ es.length = 13 ∧ ∀ e ∈ es, e.valid = true := by
  obtain ⟨hcount, hpoison, -⟩ := hs
  rw [Machine.accepts_iff, hcount, hpoison, Bool.not_eq_false', List.all_eq_true]
  exact and_congr_left' (by omega)

/-- The bytes a commit would copy are the payload's fields. -/
theorem State.HoldsPayload.stagedFields_eq {es : List Element} {s : State} (hs : s.HoldsPayload es)
    {fields : Vector Byte 12} (h : payloadFields es = some fields) : stagedFields s.sb = some fields := by
  obtain ⟨-, -, hstaged⟩ := hs
  obtain ⟨-, hfields⟩ := (payloadFields_eq_some_iff es fields).1 h
  refine (stagedFields_eq_some_iff s.sb fields).2 fun i => ?_
  obtain ⟨e, helement, hbyte⟩ := Option.map_eq_some_iff.1 (hfields i)
  rw [← sbByte_eq s (by omega), hstaged _ e (by omega) helement, hbyte]

/-- SNAP_END makes of DS what the payload-level decode makes of it, and answers whether that committed. -/
theorem State.HoldsPayload.execSnapEnd_eq {es : List Element} {s : State} (hs : s.HoldsPayload es) :
    execSnapEnd s = .next (({ s with
      ds := (decodePayload es s.ds).1
      dstat := if (decodePayload es s.ds).2 = true then .committed else .rejected } : State).clearStaging.answered
        (if (decodePayload es s.ds).2 = true then 1 else 0)) := by
  have haccepts := hs.accepts_iff.trans (payloadFields_isSome_iff es).symm
  cases hfields : payloadFields es with
  | none =>
    rw [decodePayload_of_none hfields]
    exact execSnapEnd_of_rejects (by simpa [hfields] using haccepts)
  | some fields =>
    rw [decodePayload_of_some hfields]
    exact execSnapEnd_of_commits (by simpa [hfields] using haccepts) (hs.stagedFields_eq hfields)

theorem map_encode_payloadRequests (es : List Element) : (payloadRequests es).map encode =
    encode .snapBegin :: es.map (fun e => encode (.snapPush e.byte e.valid)) ++ [encode .snapEnd] := by
  simp [payloadRequests]

/-- Settles O33: SNAP_BEGIN starts an empty payload, the pushes stage the elements, and SNAP_END decodes them. -/
theorem snapshotRequestsRefineDecode : Obligations.SnapshotRequestsRefineDecode := by
  intro s es
  have hbegin : serve (encode .snapBegin) s = .next (s.clearStaging.answered 0) :=
    serve_ok (decodeOfEncodeIsIdentity .snapBegin) s
  obtain ⟨t, ht, hpayload, hframe⟩ :=
    runAll_snapPushes es (s := s.clearStaging.answered 0) s.holdsPayload_clearStaging
  obtain ⟨u, hu, hrest⟩ := requestsTakeEffectInIssueOrder s
    (encode .snapBegin :: es.map fun e => encode (.snapPush e.byte e.valid)) [encode .snapEnd]
  rw [runAll_issueAll_cons hbegin] at hu
  cases ht.symm.trans hu
  have hend := (serve_ok (decodeOfEncodeIsIdentity .snapEnd) t).trans hpayload.execSnapEnd_eq
  have hds : t.ds = s.ds := by rw [hframe]; rfl
  rw [hds] at hend
  have hrun := hrest.trans ((runAll_issueAll_cons hend []).trans (runAll_issueAll_nil _))
  rw [map_encode_payloadRequests]
  exact ⟨_, hrun, rfl, rfl, List.getLast?_concat, by rw [hframe]; exact ⟨rfl, rfl, rfl, rfl, rfl⟩⟩

/-! ## Requests of other units (`42_snapshot.md` R149) -/

/-- The state of the snapshot extractor: SB, scnt, spoison, DS and dstat. -/
def State.extractor (s : State) : Vector (Option Byte) 13 × Fin 15 × Bool × Vector Byte 12 × DecodeStatus :=
  (s.sb, s.scnt, s.spoison, s.ds, s.dstat)

theorem State.extractor_eq_iff {s u : State} : s.extractor = u.extractor ↔
    s.sb = u.sb ∧ s.scnt = u.scnt ∧ s.spoison = u.spoison ∧ s.ds = u.ds ∧ s.dstat = u.dstat := by
  simp [State.extractor]

/-- A word that is no snapshot request, faulting or not, leaves the extractor. -/
theorem serve_extractor_eq {s t : State} {w : RequestWord} (hw : isOfUnit .snapshotInput w = false)
    (h : serve w s = .next t) : t.extractor = s.extractor := by
  obtain ⟨i, u, d, hdecode, hwrites, rfl⟩ | ⟨c, -, rfl⟩ := serve_next_cases h
  · have hunit := (isOfUnit_eq_false_iff hdecode).1 hw
    obtain ⟨hcount, hpoison⟩ := hwrites.staging_eq hunit
    obtain ⟨hds, hdstat⟩ := hwrites.deviceState_eq fun hop => hunit (by rw [hop]; rfl)
    exact State.extractor_eq_iff.2 ⟨hwrites.sb_eq fun hop => hunit (by rw [hop]; rfl), hcount, hpoison, hds, hdstat⟩
  · rfl

/-- What SNAP_END leaves in the extractor is made of the extractor alone. -/
theorem execSnapEnd_extractor_congr {s u t v : State} (h : s.extractor = u.extractor) (hs : execSnapEnd s = .next t)
    (hu : execSnapEnd u = .next v) : t.extractor = v.extractor := by
  obtain ⟨hsb, hcount, hpoison, hds, hdstat⟩ := State.extractor_eq_iff.1 h
  have haccepts : s.accepts = u.accepts := by rw [State.accepts, State.accepts, hcount, hpoison]
  rw [State.extractor_eq_iff]
  obtain ⟨fields, ha, hf, hs'⟩ | ⟨ha, hf, hs'⟩ | ⟨ha, hs'⟩ := execSnapEnd_cases s <;> cases hs.symm.trans hs'
  · rw [execSnapEnd_of_commits (haccepts ▸ ha) (hsb ▸ hf)] at hu
    cases hu
    exact ⟨hsb, rfl, rfl, rfl, rfl⟩
  · have hfault := (Raises.commitUnwritten (haccepts ▸ ha) (hsb ▸ hf) : Raises u .snapEnd .eUnwritten).exec_eq
    cases hu.symm.trans hfault
    exact ⟨hsb, hcount, hpoison, hds, hdstat⟩
  · rw [execSnapEnd_of_rejects (haccepts ▸ ha)] at hu
    cases hu
    exact ⟨hsb, rfl, rfl, hds, rfl⟩

/-- What a snapshot request leaves in the extractor is made of the extractor alone. -/
theorem exec_extractor_congr {i : Instr} (hunit : unitOf i.op = .snapshotInput) {s u t v : State}
    (h : s.extractor = u.extractor) (hs : exec i s = .next t) (hu : exec i u = .next v) :
    t.extractor = v.extractor := by
  cases i with
  | snapEnd => exact execSnapEnd_extractor_congr h hs hu
  | snapBegin =>
    cases hs
    cases hu
    obtain ⟨hsb, -, -, hds, hdstat⟩ := State.extractor_eq_iff.1 h
    exact State.extractor_eq_iff.2 ⟨hsb, rfl, rfl, hds, hdstat⟩
  | snapPush a v =>
    cases hs
    cases hu
    obtain ⟨hsb, hcount, hpoison, hds, hdstat⟩ := State.extractor_eq_iff.1 h
    exact State.extractor_eq_iff.2 ⟨congrArg₂ (stagedWith · · a) hsb hcount, congrArg nextCount hcount,
      congrArg (· || !v) hpoison, hds, hdstat⟩
  | _ => cases hunit

theorem serve_extractor_congr {w : RequestWord} (hw : isOfUnit .snapshotInput w = true) {s u t v : State}
    (h : s.extractor = u.extractor) (hs : serve w s = .next t) (hu : serve w u = .next v) :
    t.extractor = v.extractor := by
  cases hdecode : decode w with
  | error c => simp [isOfUnit, hdecode] at hw
  | ok i =>
    have hunit : unitOf i.op = .snapshotInput := by simpa [isOfUnit, hdecode] using hw
    rw [serve_ok hdecode] at hs hu
    exact exec_extractor_congr hunit h hs hu

/-- Two runs from states with the same extractor, one of snapshot requests and one of these interleaved with other
words, end with the same extractor. -/
theorem Interleaving.extractor_eq {snapshot others merged : List RequestWord}
    (hmerged : Interleaving snapshot others merged) (hsnapshot : ∀ w ∈ snapshot, isOfUnit .snapshotInput w = true)
    (hothers : ∀ w ∈ others, isOfUnit .snapshotInput w = false) {s u : State} (h : s.extractor = u.extractor) :
    ∃ t v, runAll (s.issueAll merged) = .next t ∧ runAll (u.issueAll snapshot) = .next v ∧
      t.extractor = v.extractor := by
  induction hmerged generalizing s u with
  | done => exact ⟨_, _, runAll_issueAll_nil s, runAll_issueAll_nil u, h⟩
  | left w _ ih =>
    obtain ⟨hw, hrest⟩ := List.forall_mem_cons.1 hsnapshot
    obtain ⟨s', hs⟩ := serve_next w s
    obtain ⟨u', hu⟩ := serve_next w u
    rw [runAll_issueAll_cons hs, runAll_issueAll_cons hu]
    exact ih hrest hothers (serve_extractor_congr hw h hs hu)
  | right w _ ih =>
    obtain ⟨hw, hrest⟩ := List.forall_mem_cons.1 hothers
    obtain ⟨s', hs⟩ := serve_next w s
    rw [runAll_issueAll_cons hs]
    exact ih hsnapshot hrest ((serve_extractor_eq hw hs).trans h)

/-- Settles O35: the two runs start from the same state, so with the same extractor. -/
theorem snapshotInputIgnoresOtherUnits : Obligations.SnapshotInputIgnoresOtherUnits := by
  intro s snapshot others merged hsnapshot hothers hmerged
  obtain ⟨t, u, ht, hu, h⟩ := hmerged.extractor_eq hsnapshot hothers (s := s) rfl
  exact ⟨t, u, ht, hu, State.extractor_eq_iff.1 h⟩

/-! ## The snapshot requests one at a time (`42_snapshot.md` R141, R142, R143) -/

/-- The words with an operation's OP, in two cases: the operation's request, or E_RESERVED. -/
theorem words_of_op (op : Op) (s : State) {w : RequestWord} (hop : fieldOP w = opCode op) {i : Instr}
    (hi : instrOfFields op w = i) :
    (w.extractLsb' (reservedFrom op) (64 - reservedFrom op) = 0 → decode w = .ok i) ∧
    (w.extractLsb' (reservedFrom op) (64 - reservedFrom op) ≠ 0 →
      step (s.issue w) = .next (s.faulted .eReserved (opCode op))) :=
  ⟨fun h => hi ▸ decode_of_highBits_eq_zero hop h, fun h => step_issue_of_highBits_ne_zero hop h s⟩

/-- Settles O29: SNAP_BEGIN uses no operand bit. -/
theorem snapBeginClearsTheStaging : Obligations.SnapBeginClearsTheStaging :=
  fun s => ⟨rfl, fun _ hop => words_of_op .snapBegin s hop rfl⟩

theorem zext32_scntBits (scnt : Fin 15) : zext32 (scntBits scnt) = BitVec.ofNat 32 scnt.val := by
  revert scnt; decide

/-- Settles O30: `sbByte_stage` for the byte; SNAP_PUSH uses A and B[0]. -/
theorem snapPushStagesAnElement : Obligations.SnapPushStagesAnElement := by
  intro s
  refine ⟨fun a v => ⟨(s.stage a v).answered _, rfl, nextCount_val _, ?_, ?_, sbByte_stage s a v, rfl⟩,
    fun w hop => words_of_op .snapPush s hop (congrArg (Instr.snapPush (fieldA w)) (getLsbD_fieldB_zero w))⟩
  · cases v <;> simp [answered_eq]
  · rw [zext32_scntBits]; rfl

/-- Settles O31: a payload is accepted or rejected; SNAP_END uses no operand bit. -/
theorem snapEndCommitsOrRejects : Obligations.SnapEndCommitsOrRejects := by
  intro s
  refine ⟨fun fields hcount hclean hstaged => ?_, fun hrejects => ?_, fun _ hop => words_of_op .snapEnd s hop rfl⟩
  · have hfields : stagedFields s.sb = some fields :=
      (stagedFields_eq_some_iff s.sb fields).2 fun i => by rw [← sbByte_eq s (by omega), hstaged i]
    exact execSnapEnd_of_commits ((accepts_iff s).2 ⟨hcount, hclean⟩) hfields
  · exact execSnapEnd_of_rejects (Bool.eq_false_iff.2 (mt (accepts_iff s).1 hrejects))

/-! ## The reads over DeviceState (`42_snapshot.md` R150 to R153) -/

/-- Settles O36: an entry or the range fault; DS_READ uses A[3:0]. -/
theorem dsReadReturnsAnEntryOrFaults : Obligations.DsReadReturnsAnEntryOrFaults :=
  fun s => ⟨fun _ _ hb => execDsRead_of_dsByte_some hb, fun _ hlow hhigh => (dsByte_isSome_iff s _).2 ⟨hlow, hhigh⟩,
    fun _ hi => (Raises.dsRange hi).exec_eq,
    fun w hop => words_of_op .dsRead s hop (congrArg Instr.dsRead (extractLsb'_fieldA w (by decide)))⟩

theorem zext32_ofBool (b : Bool) : zext32 (BitVec.ofBool b) = if b then 1 else 0 := by
  cases b <;> rfl

/-- Settles O37: DS[1] is the bitmask; DIN_TEST uses A[2:0]. -/
theorem dinTestReturnsABit : Obligations.DinTestReturnsABit := by
  refine fun s => ⟨fun k din hdin => ?_,
    fun w hop => words_of_op .dinTest s hop (congrArg Instr.dinTest (extractLsb'_fieldA w (by decide)))⟩
  obtain rfl : s.din = din := Option.some.inj hdin
  exact congrArg (fun d => Host.Outcome.next (s.answered d)) (zext32_ofBool (s.dinBit k))

/-- A clamped byte is answered as `min(v, 255)`, which is the byte. -/
theorem respond_clamp255 (v : Byte) (s : State) :
    respond (zext32 (clamp255 v)) s = .next (s.answered (BitVec.ofNat 32 (min v.toNat 255))) ∧
      respond (zext32 (clamp255 v)) s = .next (s.answered (v.setWidth 32)) := by
  have hmin : min v.toNat 255 = v.toNat := Nat.min_eq_left (by omega)
  rw [clamp255_eq, hmin, BitVec.ofNat_toNat]
  exact ⟨rfl, rfl⟩

/-- Settles O38: DS[2] is the distance; DIST_READ uses no operand bit. -/
theorem distReadReturnsTheDistance : Obligations.DistReadReturnsTheDistance := by
  refine fun s => ⟨fun d hd => ?_, fun _ hop => words_of_op .distRead s hop rfl⟩
  obtain rfl : s.dist = d := Option.some.inj hd
  exact respond_clamp255 s.dist s

/-- Settles O39: DS[3] is the potentiometer and DS[4] the light; ANALOG_READ uses A[0]. -/
theorem analogReadSelectsAChannel : Obligations.AnalogReadSelectsAChannel := by
  refine fun s => ⟨fun v hv => ?_, fun v hv => ?_,
    fun w hop => words_of_op .analogRead s hop (congrArg Instr.analogRead (extractLsb'_fieldA w (by decide)))⟩
  · obtain rfl : s.pot = v := Option.some.inj hv
    exact respond_clamp255 s.pot s
  · obtain rfl : s.light = v := Option.some.inj hv
    exact respond_clamp255 s.light s

end Sys2Proof.Machine

/-! SUPPORT. What every step and run end in, when a word faults and with which code, the fields of the status word, and
the statements of `60_exceptions.md` (O46, O47, O49, O5, O6, O7, O40). -/

namespace Sys2Proof.Machine

/-! ## The block never stops (`60_exceptions.md` R178, R189, `70_reset_and_hazards.md` R201) -/

/-- With an event issued, a step takes it off the port and goes on, whether the event is a reset or a word. -/
theorem step_next_of_pending {s : State} {e : Event} {rest : List Event} (h : s.pending = e :: rest) :
    ∃ t, step s = .next t ∧ t.pending = rest := by
  cases e with
  | reset => exact ⟨_, step_reset h, rfl⟩
  | request w =>
    obtain ⟨t, r, hstep, hpending, -⟩ := everyRequestGetsOneResponse s w rest h
    exact ⟨t, hstep, hpending⟩

/-- Settles O5: with an empty port a step waits. -/
theorem stateHeldBetweenRequests : Obligations.StateHeldBetweenRequests :=
  fun _ => step_nil

theorem step_next (s : State) : ∃ t, step s = .next t := by
  cases hpending : s.pending with
  | nil => exact ⟨s, step_nil hpending⟩
  | cons e rest =>
    obtain ⟨t, hstep, -⟩ := step_next_of_pending hpending
    exact ⟨t, hstep⟩

/-- A run serves every event that is issued, by induction on the events. -/
theorem runAll_next {events : List Event} {s : State} (h : s.pending = events) :
    ∃ t, runAll s = .next t ∧ t.pending = [] := by
  induction events generalizing s with
  | nil => exact ⟨s, runAll_nil h, h⟩
  | cons e rest ih =>
    obtain ⟨t, hstep, hpending⟩ := step_next_of_pending h
    rw [runAll_cons h hstep hpending]
    exact ih hpending

/-- Settles O46: a step waits or serves the next event, so a run empties the port. -/
theorem theBlockNeverStops : Obligations.TheBlockNeverStops :=
  ⟨step_next, fun _ => runAll_next rfl⟩

/-! ## Faults are precise (`60_exceptions.md` R175) -/

/-- Settles O47: a word answered OK has another response, and a word that faults leaves the faulted state. -/
theorem faultsArePrecise : Obligations.FaultsArePrecise := by
  intro s t w c d hstep hresponses
  rw [step_issue] at hstep
  obtain ⟨i, u, d', -, hwrites, rfl⟩ | ⟨c', -, rfl⟩ := serve_next_cases hstep
  · simp [answered_eq, hwrites.responses_eq] at hresponses
  · obtain ⟨rfl, -⟩ : c' = c ∧ 0 = d := by simpa [faulted_eq] using hresponses
    rfl

/-! ## The decoder's faults (`60_exceptions.md` R171, R172) -/

theorem opOfCode_eq_none_iff_notMem {code : Byte} : opOfCode code = none ↔ code ∉ allOps.map opCode := by
  simp [opOfCode]

theorem decode_eq_illegal_iff {w : RequestWord} :
    decode w = .error .eIllegalOp ↔ opOfCode (fieldOP w) = none := by
  refine ⟨fun h => ?_, decode_illegal⟩
  obtain ⟨i, hi, -⟩ | ⟨-, hop⟩ | ⟨hreserved, -⟩ := decode_cases w
  · rw [h] at hi; cases hi
  · exact hop
  · rw [h] at hreserved; cases hreserved

/-- Settles O6: the 13 OP values are those of `allOps`, and the decoder's fault is answered as it is. -/
theorem reservedOpFaultsIllegal : Obligations.ReservedOpFaultsIllegal := by
  refine fun s w => ⟨?_, fun h => (step_issue s w).trans (serve_error h s)⟩
  rw [decode_eq_illegal_iff, opOfCode_eq_none_iff_notMem]
  rfl

/-- Settles O7: any reserved bit faults, and Z lies outside every used mask. -/
theorem reservedOperandBitFaults : Obligations.ReservedOperandBitFaults := by
  intro s w op hop
  have hfaults (h : reservedBits op w ≠ 0) : step (s.issue w) = .next (s.faulted .eReserved (opCode op)) := by
    rw [step_issue, serve_error (decode_reserved hop h), hop]
  refine ⟨hfaults, fun hz => hfaults fun hclear => hz ?_⟩
  exact extractLsb'_eq_zero_of_reservedBits hclear 56 (by cases op <;> decide)

/-! ## Which fault a word answers (`60_exceptions.md` R176) -/

/-- A word that decodes is its operation applied to its own fields. -/
theorem eq_instrOfFields_of_decode {w : RequestWord} {i : Instr} (h : decode w = .ok i) : i = instrOfFields i.op w := by
  have hop := fieldOP_of_decode h
  by_cases hclear : reservedBits i.op w = 0
  · exact Except.ok.inj (h.symm.trans (decode_dispatch hop hclear))
  · rw [decode_reserved hop hclear] at h
    cases h

theorem index_of_decode_frameRead {w : RequestWord} {k : BitVec 4} (h : decode w = .ok (.frameRead k)) :
    k = w.extractLsb' 8 4 :=
  (Instr.frameRead.inj (eq_instrOfFields_of_decode h)).trans (extractLsb'_fieldA w (by decide))

theorem index_of_decode_dsRead {w : RequestWord} {k : BitVec 4} (h : decode w = .ok (.dsRead k)) :
    k = w.extractLsb' 8 4 :=
  (Instr.dsRead.inj (eq_instrOfFields_of_decode h)).trans (extractLsb'_fieldA w (by decide))

/-- `FaultCondition s w c`: the condition of the fault `c` holds of the word `w` in `s` (`60_exceptions.md` R171 to
R174), whether or not one that comes before it does. -/
def FaultCondition (s : State) (w : RequestWord) : FaultCode → Prop
  | .eIllegalOp => ∀ op, fieldOP w ≠ opCode op
  | .eReserved => ∃ op, fieldOP w = opCode op ∧ reservedBits op w ≠ 0
  | .eRange =>
    (fieldOP w = 0x11 ∧ 9 < (w.extractLsb' 8 4).toNat) ∨
      (fieldOP w = 0x30 ∧ ((w.extractLsb' 8 4).toNat = 0 ∨ 12 < (w.extractLsb' 8 4).toNat))
  | .eUnwritten => fieldOP w = 0x11 ∧ s.fvalid = false

/-- In a state that meets the invariant, FB has no value at an index of a frame only where fvalid is 0
(`10_state.md` R24). -/
theorem State.Inv.fvalid_eq_false {s : State} (hs : s.Inv) {k : Nat} (hk : k ≤ 9) (h : s.fbByte k = none) :
    s.fvalid = false := by
  obtain ⟨hvalid, -⟩ := hs
  rw [hvalid]
  cases hfb : s.fb with
  | none => rfl
  | some f =>
    have hsome : s.fbByte k = some f[k] := by
      rw [State.fbByte, hfb]
      exact Vector.getElem?_eq_getElem (by omega)
    rw [h] at hsome
    cases hsome

/-- In a state that meets the invariant, a word faults only where the condition of its fault holds. -/
theorem Faults.condition {s : State} {w : RequestWord} {c : FaultCode} (h : Faults s w c) (hs : s.Inv) :
    FaultCondition s w c := by
  cases h with
  | decoder error =>
    obtain ⟨i, hi, -⟩ | ⟨hc, hop⟩ | ⟨hc, hreserved⟩ := decode_cases w
    · rw [hi] at error; cases error
    · rw [hc] at error; cases error; exact opOfCode_eq_none_iff.1 hop
    · rw [hc] at error; cases error; exact hreserved
  | request ok raises =>
    have hop := fieldOP_of_decode ok
    cases raises with
    | frameRange index =>
      obtain rfl := index_of_decode_frameRead ok
      exact .inl ⟨hop, index⟩
    | frameUnwritten index unwritten => exact ⟨hop, unwritten.elim id (hs.fvalid_eq_false index)⟩
    | dsRange index =>
      obtain rfl := index_of_decode_dsRead ok
      exact .inr ⟨hop, index⟩
    | commitUnwritten accepts unstaged => exact absurd unstaged (hs.stagedFields_ne_none accepts)

/-- A word with an operation's OP decodes to the operation's request where no reserved bit faults. -/
theorem decode_of_not_reserved {s : State} {w : RequestWord} {op : Op} (hop : fieldOP w = opCode op)
    (hreserved : ¬FaultCondition s w .eReserved) : decode w = .ok (instrOfFields op w) :=
  decode_dispatch hop (by_contra fun h => hreserved ⟨op, hop, h⟩)

/-- An index outside the entries faults with E_RANGE where no reserved bit does. -/
theorem faults_range {s : State} {w : RequestWord} (hreserved : ¬FaultCondition s w .eReserved)
    (hrange : FaultCondition s w .eRange) : Faults s w .eRange := by
  rw [FaultCondition, ← extractLsb'_fieldA w (by decide)] at hrange
  obtain ⟨hop, hindex⟩ | ⟨hop, hindex⟩ := hrange
  · exact .request (decode_of_not_reserved (op := .frameRead) hop hreserved) (.frameRange hindex)
  · exact .request (decode_of_not_reserved (op := .dsRead) hop hreserved) (.dsRange hindex)

/-- A read of FB before the first frame faults with E_UNWRITTEN where no reserved bit and no index does. -/
theorem faults_unwritten {s : State} {w : RequestWord} (hreserved : ¬FaultCondition s w .eReserved)
    (hrange : ¬FaultCondition s w .eRange) (hunwritten : FaultCondition s w .eUnwritten) :
    Faults s w .eUnwritten := by
  rw [FaultCondition, ← extractLsb'_fieldA w (by decide)] at hrange
  obtain ⟨hop, hinvalid⟩ := hunwritten
  exact .request (decode_of_not_reserved (op := .frameRead) hop hreserved)
    (.frameUnwritten (Nat.not_lt.1 fun h => hrange (.inl ⟨hop, h⟩)) (.inl hinvalid))

/-- Settles O49: each condition faults where no earlier one holds, and a fault needs its condition. -/
theorem faultPriority : Obligations.FaultPriority := by
  intro s w hs illegal reserved index range unwritten
  rw [step_issue]
  refine ⟨fun hillegal => ?_, fun _ ⟨op, hop, hreserved⟩ => ?_, fun _ hreserved hrange => ?_,
    fun _ hreserved hrange hunwritten => ?_, fun hillegal hreserved hrange hunwritten => ?_⟩
  · exact serve_error (decode_illegal (opOfCode_eq_none_iff.2 hillegal)) s
  · exact serve_error (decode_reserved hop hreserved) s
  · exact serve_of_faults (faults_range hreserved hrange)
  · exact serve_of_faults (faults_unwritten hreserved hrange hunwritten)
  · obtain ⟨i, t, d, -, hwrites, h⟩ | ⟨c, hfaults, -⟩ := serve_cases w s
    · exact ⟨_, d, h, by simp [answered_eq, hwrites.responses_eq]⟩
    · have hcondition := hfaults.condition hs
      cases c with
      | eIllegalOp => exact absurd hcondition hillegal
      | eReserved => exact absurd hcondition hreserved
      | eRange => exact absurd hcondition hrange
      | eUnwritten => exact absurd hcondition hunwritten

/-! ## The status word (`60_exceptions.md` R180, `10_state.md` R33) -/

/-- Each field stands at its own place in the status word. -/
theorem statusWord_slices (s : State) :
    s.statusWord.extractLsb' 0 4 = scntBits s.scnt ∧ s.statusWord.getLsbD 4 = s.spoison ∧
      s.statusWord.getLsbD 5 = s.fvalid ∧ s.statusWord.extractLsb' 6 2 = dstatBits s.dstat ∧
      s.statusWord.extractLsb' 8 4 = codeBits s.err ∧ s.statusWord.extractLsb' 12 8 = s.errop ∧
      s.statusWord.extractLsb' 20 12 = 0 := by
  simp (disch := decide) only [State.statusWord, BitVec.extractLsb'_append_eq_of_le,
    BitVec.extractLsb'_append_eq_of_add_le, BitVec.extractLsb'_eq_self, BitVec.getLsbD_append, BitVec.getLsbD_ofBool,
    Nat.reduceSub, Nat.reduceLT, ↓reduceIte, decide_true, Bool.true_and, BitVec.ofNat_eq_ofNat, and_self]

/-- Settles O40: the slices of the status word are its fields, with the values of dstat and err case by case;
STATUS_READ uses no operand bit. -/
theorem statusReadReturnsTheStatusWord : Obligations.StatusReadReturnsTheStatusWord := by
  intro s
  obtain ⟨hscnt, hspoison, hfvalid, hdstat, herr, herrop, hzero⟩ := statusWord_slices s
  refine ⟨⟨s.statusWord, rfl, hscnt, hspoison, hfvalid, hdstat.trans ?_, herr.trans ?_, herrop, hzero⟩,
    fun _ hop => words_of_op .statusRead s hop rfl⟩
  · cases s.dstat <;> rfl
  · cases s.err with
    | none => rfl
    | some c => cases c <;> rfl

end Sys2Proof.Machine

/-! SUPPORT. What the reset state holds and what reads of DS answer before the first SNAP_END, and the statements of
`70_reset_and_hazards.md` (O1, O2, O42, O41). -/

namespace Sys2Proof.Machine

/-! ## The state after reset (`70_reset_and_hazards.md` R190) -/

/-- Where all of DS is 0, each of its entries 1..12 reads as 0. -/
theorem dsByte_eq_zero_of_ds {s : State} (hds : ∀ k : Fin 12, s.ds[k.val] = 0) {i : Nat} (hlow : 1 ≤ i)
    (hhigh : i ≤ 12) : s.dsByte i = some 0 := by
  obtain ⟨k, rfl⟩ := Nat.exists_eq_add_of_le' hlow
  rw [dsByte_succ s hhigh]
  exact congrArg some (hds ⟨k, hhigh⟩)

theorem sbByte_resetOf (inst : Config.Instance) (i : Nat) : (State.resetOf inst).sbByte i = none := by
  by_cases hi : i < 13
  · rw [sbByte_eq _ hi]
    exact Vector.getElem_replicate hi
  · exact congrArg Option.join (Vector.getElem?_eq_none (Nat.not_lt.1 hi))

theorem atReset_resetOf (inst : Config.Instance) : (State.resetOf inst).AtReset :=
  ⟨rfl, fun _ => rfl, rfl, rfl, fun _ => dsByte_eq_zero_of_ds fun k => Vector.getElem_replicate k.isLt,
    sbByte_resetOf inst, rfl, rfl, rfl, rfl, rfl⟩

/-- A reset event gives each piece of state what the reset state with the same parameters holds. -/
theorem State.resetEvent_atReset (s : State) : s.resetEvent.AtReset := atReset_resetOf s.inst

/-- Settles O1: the step leaves the reset event's state, whose FB has no byte to read. -/
theorem resetEventSetsEveryField : Obligations.ResetEventSetsEveryField :=
  fun _ _ hpending => ⟨_, step_reset hpending, State.resetEvent_atReset _, rfl,
    fun _ hi => execFrameRead_of_fbByte_none hi rfl⟩

/-- Settles O2: the reset state is the one with the open parameters; the event only leaves the port. -/
theorem resetStateHasTheListedValues : Obligations.ResetStateHasTheListedValues :=
  ⟨atReset_resetOf Config.theInstance, rfl, rfl, rfl, rfl, fun _ _ hpending => ⟨_, step_reset hpending, rfl, rfl⟩⟩

/-! ## The invariant at reset -/

/-- Nothing is in FB, nothing is counted as staged, DS is 0, no fault is held and nothing is answered. -/
theorem inv_resetOf (inst : Config.Instance) : (State.resetOf inst).Inv :=
  ⟨rfl, rfl, fun i hi => absurd hi i.val.not_lt_zero, Bool.noConfusion,
    fun _ i => Vector.getElem_replicate i.isLt, rfl, rfl⟩

/-- Settles O42: it holds at reset whatever START_BYTE and END_BYTE are. -/
theorem invariantHoldsAtReset : Obligations.InvariantHoldsAtReset := inv_resetOf Config.theInstance

/-! ## Reads of DS before the first SNAP_END (`70_reset_and_hazards.md` R193) -/

/-- In a state that meets the invariant, DS holds its reset value while dstat is 0 (`10_state.md` R25, R29). -/
theorem State.Inv.dsByte_eq_zero {s : State} (hs : s.Inv) (hdstat : s.dstat = .noneYet) {i : Nat} (hlow : 1 ≤ i)
    (hhigh : i ≤ 12) : s.dsByte i = some 0 := by
  obtain ⟨-, -, -, -, hds, -⟩ := hs
  exact dsByte_eq_zero_of_ds (hds hdstat) hlow hhigh

/-- Settles O41: each read answers what it makes of an entry of DS, and every entry is 0. -/
theorem dsReadsZeroBeforeTheFirstSnapshot : Obligations.DsReadsZeroBeforeTheFirstSnapshot := by
  intro s hs hdstat
  have hzero (i : Nat) (hlow : 1 ≤ i) (hhigh : i ≤ 12) : s.dsByte i = some 0 := hs.dsByte_eq_zero hdstat hlow hhigh
  obtain ⟨hdin, -⟩ := dinTestReturnsABit s
  obtain ⟨hdist, -⟩ := distReadReturnsTheDistance s
  obtain ⟨hpot, hlight, -⟩ := analogReadSelectsAChannel s
  refine ⟨fun i hlow hhigh => execDsRead_of_dsByte_some (hzero _ hlow hhigh), fun k => ?_,
    (hdist 0 (hzero 2 (by decide) (by decide))).2, fun ch => ?_⟩
  · rw [hdin k 0 (hzero 1 (by decide) (by decide)), BitVec.ofNat_eq_ofNat, BitVec.getLsbD_zero]
    rfl
  · obtain rfl | rfl := BitVec.eq_zero_or_eq_one ch
    · exact (hpot 0 (hzero 3 (by decide) (by decide))).2
    · exact (hlight 0 (hzero 4 (by decide) (by decide))).2

end Sys2Proof.Machine
